-- ==== Sys2Proof/Word.lean ====
section
/-! DEFINITION. The word types of the block (00_scope.md rules R7 and R9): bytes, instruction words and 16-bit
registers, 12-bit address immediates, and register indices. -/

namespace Sys2Proof

/-- One byte: a general register, a timer, a memory cell, a key state (rule R7). -/
abbrev Byte := BitVec 8

/-- Sixteen bits: an instruction word, `I`, `PC`, a stack entry (rule R7). -/
abbrev Word := BitVec 16

/-- The address immediate `nnn` (30_encoding.md rule R81). -/
abbrev Addr12 := BitVec 12

/-- The index of a general register, a key or a stack entry: 0 to 15 (10_state.md rules R22, R28, R35). -/
abbrev Ix := Fin 16

/-- `VF` is `V[15]` (00_scope.md rule R11). -/
abbrev vf : Ix := 15

end Sys2Proof
end

