-- ==== Sys2Proof/Config.lean ====
section
/-! DEFINITION. What is fixed for the machine (the parameters of 00_scope.md rule R7) and the one value the spec leaves
free (the random byte, 10_state.md rule R37). The font table is in Machine/Font.lean. -/

namespace Sys2Proof.Config

/-- MEM_SIZE: addresses 0x000-0xFFF (rule R7). -/
abbrev memSize : Nat := 0x1000

/-- PROGRAM_BASE, the entry point (rule R7), and the lowest address a program may write (20_memory.md rule R57). -/
abbrev programBase : Nat := 0x200

/-- MAX_PROGRAM: 4096 - 0x200 bytes (rule R7). -/
abbrev maxProgram : Nat := 3584

/-- FB_HEIGHT (rule R7). -/
abbrev fbHeight : Nat := 32

/-- FB_WIDTH (rule R7). -/
abbrev fbWidth : Nat := 64

/-- SPRITE_WIDTH: one byte per sprite row (rule R7). -/
abbrev spriteWidth : Nat := 8

/-- FREE VALUE (notes/assumptions/2.md): the byte `rnd` of the n-th execution of Cxkk. Rule R37 gives no generator, seed or
sequence, so nothing is known of it: a claim holds for every value. -/
opaque rnd : Nat → Byte

end Sys2Proof.Config
end

