-- ==== Sys2Proof/Machine/Font.lean ====
section
/-! DEFINITION. The font table (10_state.md rule R36) and what memory holds after reset (70_reset_and_hazards.md rule R240),
which is what an address the memory list does not mention reads as. -/

namespace Sys2Proof.Machine

/-- Glyphs 0 to 3 of the default FONT (rule R36). -/
def fontGlyphs0 : List Byte :=
  [0xF0, 0x90, 0x90, 0x90, 0xF0,  0x20, 0x60, 0x20, 0x20, 0x70,
   0xF0, 0x10, 0xF0, 0x80, 0xF0,  0xF0, 0x10, 0xF0, 0x10, 0xF0]
/-- Glyphs 4 to 7 of the default FONT (rule R36). -/
def fontGlyphs4 : List Byte :=
  [0x90, 0x90, 0xF0, 0x10, 0x10,  0xF0, 0x80, 0xF0, 0x10, 0xF0,
   0xF0, 0x80, 0xF0, 0x90, 0xF0,  0xF0, 0x10, 0x20, 0x40, 0x40]
/-- Glyphs 8 to B of the default FONT (rule R36). -/
def fontGlyphs8 : List Byte :=
  [0xF0, 0x90, 0xF0, 0x90, 0xF0,  0xF0, 0x90, 0xF0, 0x10, 0xF0,
   0xF0, 0x90, 0xF0, 0x90, 0x90,  0xE0, 0x90, 0xE0, 0x90, 0xE0]
/-- Glyphs C to F of the default FONT (rule R36). -/
def fontGlyphsC : List Byte :=
  [0xF0, 0x80, 0x80, 0x80, 0xF0,  0xE0, 0x90, 0x90, 0x90, 0xE0,
   0xF0, 0x80, 0xF0, 0x80, 0xF0,  0xF0, 0x80, 0xF0, 0x80, 0x80]

/-- The parameter FONT at its default value: 80 bytes, glyph d at 5d to 5d + 4 (rule R36). PRESUMED: the spec itself takes the
bytes "from general knowledge" (notes/assumptions/1.md). -/
def font : List Byte := fontGlyphs0 ++ fontGlyphs4 ++ fontGlyphs8 ++ fontGlyphsC

/-- What reset leaves at an address: FONT at 0x000-0x04F, 0 elsewhere (rule R240). -/
def resetByte (a : Nat) : Byte := font.getD a 0

end Sys2Proof.Machine
end

