-- ==== Sys2Proof/Syntax.lean ====
section
/-! DEFINITION. The abstract syntax: one constructor per row of the opcode table (30_encoding.md rule R85), in the table's
order, with the fields of rule R81 as operands. -/

namespace Sys2Proof

/-- The 34 instructions. `x` and `y` are register indices, `kk` the byte immediate, `nnn` the address immediate, `n` the
sprite height (rule R81). -/
inductive Instr where
  /-- 00E0 CLS (R110) -/
  | cls
  /-- 00EE RET (R120) -/
  | ret
  /-- 1nnn JP addr (R121) -/
  | jp (nnn : Addr12)
  /-- 2nnn CALL addr (R122) -/
  | call (nnn : Addr12)
  /-- 3xkk SE Vx, byte (R130) -/
  | seVxKk (x : Ix) (kk : Byte)
  /-- 4xkk SNE Vx, byte (R131) -/
  | sneVxKk (x : Ix) (kk : Byte)
  /-- 5xy0 SE Vx, Vy (R132) -/
  | seVxVy (x y : Ix)
  /-- 6xkk LD Vx, byte (R141) -/
  | ldVxKk (x : Ix) (kk : Byte)
  /-- 7xkk ADD Vx, byte (R142) -/
  | addVxKk (x : Ix) (kk : Byte)
  /-- 8xy0 LD Vx, Vy (R143) -/
  | ldVxVy (x y : Ix)
  /-- 8xy1 OR Vx, Vy (R144) -/
  | or (x y : Ix)
  /-- 8xy2 AND Vx, Vy (R145) -/
  | and (x y : Ix)
  /-- 8xy3 XOR Vx, Vy (R146) -/
  | xor (x y : Ix)
  /-- 8xy4 ADD Vx, Vy (R147) -/
  | addVxVy (x y : Ix)
  /-- 8xy5 SUB Vx, Vy (R148) -/
  | sub (x y : Ix)
  /-- 8xy6 SHR Vx, Vy (R149): `y` may be any value and is ignored; it is kept so that the word is kept (notes/assumptions/9.md) -/
  | shr (x y : Ix)
  /-- 8xy7 SUBN Vx, Vy (R150) -/
  | subn (x y : Ix)
  /-- 8xyE SHL Vx, Vy (R151): `y` may be any value and is ignored, as for `shr` -/
  | shl (x y : Ix)
  /-- 9xy0 SNE Vx, Vy (R133) -/
  | sneVxVy (x y : Ix)
  /-- Annn LD I, addr (R170) -/
  | ldI (nnn : Addr12)
  /-- Bnnn JP V0, addr (R123) -/
  | jpV0 (nnn : Addr12)
  /-- Cxkk RND Vx, byte (R152) -/
  | rnd (x : Ix) (kk : Byte)
  /-- Dxyn DRW Vx, Vy, nibble (R112) -/
  | drw (x y n : Ix)
  /-- Ex9E SKP Vx (R190) -/
  | skp (x : Ix)
  /-- ExA1 SKNP Vx (R191) -/
  | sknp (x : Ix)
  /-- Fx07 LD Vx, DT (R192) -/
  | ldVxDt (x : Ix)
  /-- Fx0A LD Vx, K (R193) -/
  | ldVxK (x : Ix)
  /-- Fx15 LD DT, Vx (R196) -/
  | ldDtVx (x : Ix)
  /-- Fx18 LD ST, Vx (R197) -/
  | ldStVx (x : Ix)
  /-- Fx1E ADD I, Vx (R171) -/
  | addIVx (x : Ix)
  /-- Fx29 LD F, Vx (R174) -/
  | ldFVx (x : Ix)
  /-- Fx33 LD B, Vx (R175) -/
  | ldBVx (x : Ix)
  /-- Fx55 LD [I], Vx (R176) -/
  | ldMemVx (x : Ix)
  /-- Fx65 LD Vx, [I] (R177) -/
  | ldVxMem (x : Ix)
  deriving DecidableEq, Repr

end Sys2Proof
end

