-- ==== Sys2Proof/Decode.lean ====
section
/-! DEFINITION. The decoder (30_encoding.md rule R86), total on every byte sequence and rejecting by name, and after it the
encoder, written from the formats of rule R82 and the table of rule R85. -/

namespace Sys2Proof

/-- The fields of an instruction word (rule R81). -/
def Word.op (w : Word) : BitVec 4 := w.extractLsb' 12 4
/-- Field x: w[11:8] (rule R81). -/
def Word.x (w : Word) : Ix := (w.extractLsb' 8 4).toFin
/-- Field y: w[7:4] (rule R81). -/
def Word.y (w : Word) : Ix := (w.extractLsb' 4 4).toFin
/-- Field n: w[3:0] (rule R81). -/
def Word.n (w : Word) : Ix := (w.extractLsb' 0 4).toFin
/-- Field kk: w[7:0] (rule R81). -/
def Word.kk (w : Word) : Byte := w.extractLsb' 0 8
/-- Field nnn: w[11:0] (rule R81). -/
def Word.nnn (w : Word) : Addr12 := w.extractLsb' 0 12

/-- Why a byte sequence is no instruction. -/
inductive DecodeError where
  /-- The word is in the UnknownOpcode space (rules R87, R88). -/
  | unknownOpcode (w : Word)
  /-- Fewer than two bytes: no instruction word (rule R80). -/
  | truncated
  deriving DecidableEq, Repr

/-- The whole result of decoding one word: an instruction, or UnknownOpcode (rules R86, R87). -/
abbrev DecodeResult := Except DecodeError Instr

/-- Family 0: the two fixed words (rule R86). -/
def decode0 (w : Word) : DecodeResult :=
  if w = 0x00E0 then .ok .cls else if w = 0x00EE then .ok .ret else .error (.unknownOpcode w)

/-- Family 8: by the low nibble (rule R86). -/
def decode8 (w : Word) : DecodeResult :=
  match w.n.val with
  | 0x0 => .ok (.ldVxVy w.x w.y)
  | 0x1 => .ok (.or w.x w.y)
  | 0x2 => .ok (.and w.x w.y)
  | 0x3 => .ok (.xor w.x w.y)
  | 0x4 => .ok (.addVxVy w.x w.y)
  | 0x5 => .ok (.sub w.x w.y)
  | 0x6 => .ok (.shr w.x w.y)
  | 0x7 => .ok (.subn w.x w.y)
  | 0xE => .ok (.shl w.x w.y)
  | _ => .error (.unknownOpcode w)

/-- Family E: by the low byte (rule R86). -/
def decodeE (w : Word) : DecodeResult :=
  match w.kk.toNat with
  | 0x9E => .ok (.skp w.x)
  | 0xA1 => .ok (.sknp w.x)
  | _ => .error (.unknownOpcode w)

/-- Family F: by the low byte (rule R86). -/
def decodeF (w : Word) : DecodeResult :=
  match w.kk.toNat with
  | 0x07 => .ok (.ldVxDt w.x)
  | 0x0A => .ok (.ldVxK w.x)
  | 0x15 => .ok (.ldDtVx w.x)
  | 0x18 => .ok (.ldStVx w.x)
  | 0x1E => .ok (.addIVx w.x)
  | 0x29 => .ok (.ldFVx w.x)
  | 0x33 => .ok (.ldBVx w.x)
  | 0x55 => .ok (.ldMemVx w.x)
  | 0x65 => .ok (.ldVxMem w.x)
  | _ => .error (.unknownOpcode w)

/-- The decoder: the top nibble selects the family (rule R86). Decoding is strict (rule R91). -/
def decodeWord (w : Word) : DecodeResult :=
  match w.op.toNat with
  | 0x0 => decode0 w
  | 0x1 => .ok (.jp w.nnn)
  | 0x2 => .ok (.call w.nnn)
  | 0x3 => .ok (.seVxKk w.x w.kk)
  | 0x4 => .ok (.sneVxKk w.x w.kk)
  | 0x5 => if w.n = 0 then .ok (.seVxVy w.x w.y) else .error (.unknownOpcode w)
  | 0x6 => .ok (.ldVxKk w.x w.kk)
  | 0x7 => .ok (.addVxKk w.x w.kk)
  | 0x8 => decode8 w
  | 0x9 => if w.n = 0 then .ok (.sneVxVy w.x w.y) else .error (.unknownOpcode w)
  | 0xA => .ok (.ldI w.nnn)
  | 0xB => .ok (.jpV0 w.nnn)
  | 0xC => .ok (.rnd w.x w.kk)
  | 0xD => .ok (.drw w.x w.y w.n)
  | 0xE => decodeE w
  | 0xF => decodeF w
  | _ => .error (.unknownOpcode w)   -- no other value of four bits

/-- Two bytes, high byte first, make one instruction word (20_memory.md rule R52). -/
def wordOfBytes (hi lo : Byte) : Word := hi ++ lo

/-- The decoder on any bytes: one instruction and the bytes after it (rule R80: two bytes, big-endian). -/
def decode : List Byte → Except DecodeError (Instr × List Byte)
  | hi :: lo :: rest => (decodeWord (wordOfBytes hi lo)).map (·, rest)
  | [_] | [] => .error .truncated

/-- A register index as the four bits of its field. -/
def nibble (i : Ix) : BitVec 4 := BitVec.ofFin i

/-- Format ADDR (rule R82). -/
def encodeAddr (op : BitVec 4) (nnn : Addr12) : Word := op ++ nnn
/-- Format XKK, and format XS with its fixed sub-opcode byte for kk (rule R82). -/
def encodeXKK (op : BitVec 4) (x : Ix) (kk : Byte) : Word := op ++ nibble x ++ kk
/-- Format XYN, and format XY with its fixed sub-opcode for n (rule R82). -/
def encodeXYN (op : BitVec 4) (x y : Ix) (n : BitVec 4) : Word := op ++ nibble x ++ nibble y ++ n

/-- The encoder: the word of an instruction, from the patterns of rule R85. -/
def encode : Instr → Word
  | .cls => 0x00E0
  | .ret => 0x00EE
  | .jp nnn => encodeAddr 0x1 nnn
  | .call nnn => encodeAddr 0x2 nnn
  | .seVxKk x kk => encodeXKK 0x3 x kk
  | .sneVxKk x kk => encodeXKK 0x4 x kk
  | .seVxVy x y => encodeXYN 0x5 x y 0x0
  | .ldVxKk x kk => encodeXKK 0x6 x kk
  | .addVxKk x kk => encodeXKK 0x7 x kk
  | .ldVxVy x y => encodeXYN 0x8 x y 0x0
  | .or x y => encodeXYN 0x8 x y 0x1
  | .and x y => encodeXYN 0x8 x y 0x2
  | .xor x y => encodeXYN 0x8 x y 0x3
  | .addVxVy x y => encodeXYN 0x8 x y 0x4
  | .sub x y => encodeXYN 0x8 x y 0x5
  | .shr x y => encodeXYN 0x8 x y 0x6
  | .subn x y => encodeXYN 0x8 x y 0x7
  | .shl x y => encodeXYN 0x8 x y 0xE
  | .sneVxVy x y => encodeXYN 0x9 x y 0x0
  | .ldI nnn => encodeAddr 0xA nnn
  | .jpV0 nnn => encodeAddr 0xB nnn
  | .rnd x kk => encodeXKK 0xC x kk
  | .drw x y n => encodeXYN 0xD x y (nibble n)
  | .skp x => encodeXKK 0xE x 0x9E
  | .sknp x => encodeXKK 0xE x 0xA1
  | .ldVxDt x => encodeXKK 0xF x 0x07
  | .ldVxK x => encodeXKK 0xF x 0x0A
  | .ldDtVx x => encodeXKK 0xF x 0x15
  | .ldStVx x => encodeXKK 0xF x 0x18
  | .addIVx x => encodeXKK 0xF x 0x1E
  | .ldFVx x => encodeXKK 0xF x 0x29
  | .ldBVx x => encodeXKK 0xF x 0x33
  | .ldMemVx x => encodeXKK 0xF x 0x55
  | .ldVxMem x => encodeXKK 0xF x 0x65

/-- The high byte of a word, stored at the lower address (rule R52). -/
def hiByte (w : Word) : Byte := w.extractLsb' 8 8
/-- The low byte of a word, stored at the higher address (rule R52). -/
def loByte (w : Word) : Byte := w.extractLsb' 0 8
/-- The bytes of a word as memory stores them (rule R52). -/
def bytesOfWord (w : Word) : List Byte := [hiByte w, loByte w]

/-- The word of a table row's bits: every bit above `nbits` is 0. Every row of this table has 16 bits. -/
def tableWord (nbits w : Nat) : Word := BitVec.ofNat 16 (w % 2 ^ nbits)

/-- The instruction the decoder reads from the bytes of a table row's word, laid out as memory stores them. -/
def decodeTableWord (nbits w : Nat) : Option Instr :=
  match decode (bytesOfWord (tableWord nbits w)) with
  | .ok (i, _) => some i
  | .error _ => none

end Sys2Proof
end

