-- ==== Sys2Proof/Machine/State.lean ====
section
/-! DEFINITION. The state of the machine (10_state.md rules R20 and R21), the conditions a step reports (60_exceptions.md rule
R200), the reasons a step or a host operation can stop, and the state after reset (70_reset_and_hazards.md rule R240). -/

namespace Sys2Proof.Machine

/-- The fatal conditions by name, codes 3 to 7 of rule R200: what HALT(c) remembers (10_state.md rule R32). -/
inductive FatalCode where
  | stackOverflow
  | stackUnderflow
  | memoryOutOfRange
  | protectedWrite
  | keyOutOfRange
  deriving DecidableEq, Repr

/-- A fatal condition as it is raised, with its info (rule R200). Addresses are unbounded integers (20_memory.md rule R55). -/
inductive Fatal where
  /-- 2nnn with SP = 15 (rule R206) -/
  | stackOverflow
  /-- 00EE with SP = -1 (rule R206) -/
  | stackUnderflow
  /-- fetch, Dxyn, Fx33, Fx55, Fx65: the lowest offending address (rule R204) -/
  | memoryOutOfRange (a : Nat)
  /-- Fx33, Fx55: the lowest offending address (rule R205) -/
  | protectedWrite (a : Nat)
  /-- Ex9E, ExA1: the value V[x] (rule R207) -/
  | keyOutOfRange (v : Byte)
  deriving DecidableEq, Repr

/-- The condition a step reports, with its info (rule R200). -/
inductive Condition where
  /-- code 0: the step completed normally -/
  | none
  /-- code 1, non-fatal: the word (rule R202) -/
  | unknownOpcode (w : Word)
  /-- code 2, non-fatal: the word (rule R203) -/
  | invalidOperandIndex (w : Word)
  /-- codes 3 to 7 (rules R204 to R207) -/
  | fatal (f : Fatal)
  /-- code 8, status: the register index (rule R208) -/
  | waitingForKey (x : Ix)
  /-- code 9, status: the code that halted the block (rule R209) -/
  | halted (c : FatalCode)
  deriving DecidableEq, Repr

/-- The step result, less the numbering: the condition with its info, and drawFlag after the step (rule R201). -/
structure StepResult where
  cond : Condition
  drawFlag : Bool
  deriving DecidableEq, Repr

/-- The run state (10_state.md rule R32). -/
inductive RunState where
  /-- RUN: the next step fetches and executes -/
  | run
  /-- WAIT_KEY(x): Fx0A found no key; x receives the key code -/
  | waitKey (x : Ix)
  /-- HALT(c): a fatal condition was raised -/
  | halt (c : FatalCode)
  deriving DecidableEq, Repr

/-- Memory: the bytes that differ from the reset contents, by strictly rising address (the canonical form `Memory.wf`). An
address not listed reads as `resetByte` says (Machine/Font.lean). -/
abbrev Memory := List Host.Cell

/-- The framebuffer fb[row][col], row first (10_state.md rule R34): each pixel is 0 (false) or 1 (true). -/
abbrev Framebuffer := Vector (Vector Bool 64) 32

/-- The whole state of the block and its attached resources (rules R20, R21), under the spec's names. The last three fields
are the model's own. -/
structure State where
  /-- V[0..15] (rule R22) -/
  V : Vector Byte 16
  /-- the index register (rule R26) -/
  I : Word
  /-- the program counter (rule R27) -/
  PC : Word
  /-- the stack pointer: `none` is the empty sentinel -1, `some j` the index of the last pushed entry (rule R28) -/
  SP : Option Ix
  /-- stack[0..15] (rule R28) -/
  stack : Vector Word 16
  /-- the delay timer (rule R30) -/
  DT : Byte
  /-- the sound timer (rule R30) -/
  ST : Byte
  /-- the draw flag (rule R31) -/
  drawFlag : Bool
  /-- the run state (rule R32) -/
  run : RunState
  /-- mem[0x000..0xFFF] (rule R33) -/
  mem : Memory
  /-- fb[0..31][0..63] (rule R34) -/
  fb : Framebuffer
  /-- keys[0..15] (rule R35) -/
  keys : Vector Byte 16
  /-- MODEL'S OWN (notes/assumptions/2.md): how many random bytes have been drawn; names the free byte of the next Cxkk (rule R37) -/
  draws : Nat
  /-- MODEL'S OWN (notes/assumptions/3.md): what the last step reported (rule R201); `none` before the first step after reset -/
  result : Option StepResult
  /-- MODEL'S OWN (notes/assumptions/4.md): a program has been loaded since reset (60_exceptions.md rules R225, R227) -/
  loaded : Bool
  deriving DecidableEq, Repr

/-- No step stops with a fault: every abnormal outcome the spec names is a condition that a step reports in its NEXT state,
fatal ones by entering HALT (60_exceptions.md rules R200 and R210; notes/assumptions/5.md). So this type has no constructor. -/
inductive Fault
  deriving DecidableEq, Repr

/-- Why the model has no transition. -/
inductive Refusal where
  /-- Raised by an arm of `exec` for an instruction without a meaning: no arm does. Safe: the model stops where the block goes on. -/
  | notModelled (mnemonic : String)
  /-- Raised by the host operation `load` (never by a step) after the first step or a second time: "a model refuses a load at any
  other time" (60_exceptions.md rule R225). Safe: the model stops where a host might go on. -/
  | lateLoad
  deriving DecidableEq, Repr

/-- The state after reset (70_reset_and_hazards.md rule R240). Memory lists nothing: the reset contents, the font included, are
what an unlisted address reads as. `draws`, `result` and `loaded` are the model's own (notes/assumptions/2.md, 3.md, 4.md). -/
def State.reset : State where
  V := Vector.replicate 16 0
  I := 0
  PC := 0x200
  SP := .none
  stack := Vector.replicate 16 0
  DT := 0
  ST := 0
  drawFlag := false
  run := .run
  mem := []
  fb := Vector.replicate 32 (Vector.replicate 64 false)
  keys := Vector.replicate 16 0
  draws := 0
  result := .none
  loaded := false

end Sys2Proof.Machine
end

