-- ==== Sys2Proof/Machine/Ops.lean ====
section
/-! DEFINITION. The named operations over registers, memory, stack and framebuffer, the ways a step ends, and taking a fatal
condition (60_exceptions.md rule R210). -/

namespace Sys2Proof.Machine

/-! ## Registers and other plain state (00_scope.md rule R11) -/

/-- Read V[x]. No register is hardwired (10_state.md rule R22). -/
def State.getV (s : State) (x : Ix) : Byte := s.V[x]
/-- V[x] <- b. -/
def State.setV (s : State) (x : Ix) (b : Byte) : State := { s with V := s.V.set x b }
/-- I <- a. -/
def State.setI (s : State) (a : Word) : State := { s with I := a }
/-- PC <- a. -/
def State.setPC (s : State) (a : Word) : State := { s with PC := a }
/-- SP <- p. -/
def State.setSP (s : State) (p : Option Ix) : State := { s with SP := p }
/-- Read stack[j]. -/
def State.getStack (s : State) (j : Ix) : Word := s.stack[j]
/-- stack[j] <- a. -/
def State.setStack (s : State) (j : Ix) (a : Word) : State := { s with stack := s.stack.set j a }
/-- DT <- b. -/
def State.setDT (s : State) (b : Byte) : State := { s with DT := b }
/-- ST <- b. -/
def State.setST (s : State) (b : Byte) : State := { s with ST := b }
/-- drawFlag <- f. -/
def State.setDrawFlag (s : State) (f : Bool) : State := { s with drawFlag := f }
/-- run <- r. -/
def State.setRun (s : State) (r : RunState) : State := { s with run := r }
/-- Replace the memory. -/
def State.setMem (s : State) (m : Memory) : State := { s with mem := m }
/-- Replace the framebuffer. -/
def State.setFb (s : State) (fb : Framebuffer) : State := { s with fb := fb }
/-- Read keys[k]. -/
def State.getKey (s : State) (k : Ix) : Byte := s.keys[k]
/-- keys[k] <- b. -/
def State.setKey (s : State) (k : Ix) (b : Byte) : State := { s with keys := s.keys.set k b }
/-- Take the next free random byte (10_state.md rule R37): the state only counts the draw. -/
def State.drawRnd (s : State) : State := { s with draws := s.draws + 1 }
/-- The free byte the next Cxkk takes (10_state.md rule R37). -/
def State.nextRnd (s : State) : Byte := Config.rnd s.draws

/-! ## Memory (20_memory.md) -/

/-- MemRead(a, 1): the byte at an address; an address not listed reads as after reset. -/
def Memory.read : Memory → Nat → Byte
  | [], a => resetByte a
  | (b, u) :: m, a => if a = b then u else Memory.read m a

/-- Put a cell in front of a memory, unless it says what is read without it (the canonical form). -/
def Memory.put (a : Nat) (v : Byte) (m : Memory) : Memory := if v = resetByte a then m else (a, v) :: m

/-- MemWrite(a, 1, v): changes the byte at `a` and no other, and keeps the canonical form. The checks of rules R55 and R57 are
made by the instructions before any write (rule R60). -/
def Memory.write : Memory → Nat → Byte → Memory
  | [], a, v => Memory.put a v []
  | (b, u) :: m, a, v =>
    if a < b then Memory.put a v ((b, u) :: m)
    else if a = b then Memory.put a v m
    else (b, u) :: Memory.write m a v

/-- Bytes at consecutive increasing addresses starting at `a` (rule R59). -/
def Memory.writeList : Memory → Nat → List Byte → Memory
  | m, _, [] => m
  | m, a, v :: vs => Memory.writeList (Memory.write m a v) (a + 1) vs

/-- The canonical form from an address on: strictly rising, no entry equal to what an unlisted address reads as. -/
def Memory.wfFrom : Nat → Memory → Bool
  | _, [] => true
  | lo, (a, v) :: m => decide (lo ≤ a) && (v != resetByte a && Memory.wfFrom (a + 1) m)

/-- The canonical form of memory. -/
def Memory.wf (m : Memory) : Bool := Memory.wfFrom 0 m

/-- Every listed address exists: memory is 4096 bytes (rule R50). -/
def Memory.inSpace (m : Memory) : Bool := m.all (fun c => decide (c.1 < Config.memSize))

/-- Read one byte of the state's memory. -/
def State.readMem (s : State) (a : Nat) : Byte := Memory.read s.mem a

/-! ## The stack (10_state.md rule R28) -/

/-- SP as the spec's integer -1 to 15. -/
def spNumber : Option Ix → Int
  | .none => -1
  | .some j => (j.val : Int)

/-- The depth of the stack, SP + 1 (rule R28). -/
def stackDepth : Option Ix → Nat
  | .none => 0
  | .some j => j.val + 1

/-- SP + 1 as the index a push writes, or nothing when SP = 15 (41_control_flow.md rule R122). -/
def nextSP : Option Ix → Option Ix
  | .none => .some 0
  | .some j => if h : j.val + 1 < 16 then .some ⟨j.val + 1, h⟩ else .none

/-- SP - 1 (41_control_flow.md rule R120). -/
def prevSP (j : Ix) : Option Ix :=
  if 0 < j.val then .some ⟨j.val - 1, by omega⟩ else .none

/-! ## The framebuffer (10_state.md rule R34) -/

/-- fb[row][col]. -/
def Framebuffer.get (fb : Framebuffer) (row : Fin 32) (col : Fin 64) : Bool := fb[row][col]
/-- fb[row][col] <- p. -/
def Framebuffer.put (fb : Framebuffer) (row : Fin 32) (col : Fin 64) (p : Bool) : Framebuffer :=
  fb.set row (fb[row].set col p)
/-- Every pixel 0. -/
def Framebuffer.clear : Framebuffer := Vector.replicate 32 (Vector.replicate 64 false)

/-- Read one pixel of the state's framebuffer. -/
def State.pixel (s : State) (row : Fin 32) (col : Fin 64) : Bool := Framebuffer.get s.fb row col

/-! ## How a step ends (30_encoding.md rules R97 to R99, 60_exceptions.md rule R201) -/

/-- Report a condition, with drawFlag as the step leaves it (rule R201). -/
def State.report (s : State) (c : Condition) : State := { s with result := .some ⟨c, s.drawFlag⟩ }

/-- The advance: PC <- trunc_16(PC + 2) (rule R98). -/
def State.advance (s : State) : State := s.setPC (s.PC + 2)

/-- An instruction that neither redirects nor waits ends: advance, and report None (rule R98). -/
def State.complete (s : State) : State := s.advance.report .none

/-- A redirected instruction ends at its target with no advance, and reports None (rule R97). -/
def State.redirect (s : State) (target : Word) : State := (s.setPC target).report .none

/-- A skip adds 2 to PC during execute; the advance then adds 2 more (rules R97, R99). -/
def State.skipIf (s : State) (taken : Bool) : State := if taken then s.setPC (s.PC + 2) else s

/-- InvalidOperandIndex: no effect but PC <- PC + 2, and the word is reported (43_alu.md rule R140, rule R203). -/
def State.rejectOperand (s : State) (i : Instr) : State := s.advance.report (.invalidOperandIndex (encode i))

/-! ## Taking a fatal condition (60_exceptions.md rule R210)

There is no return from one (rule R212): HALT is left only by reset (Machine/HostOps.lean). -/

/-- The code of a fatal condition, its info left out (rule R200). -/
def Fatal.code : Fatal → FatalCode
  | .stackOverflow => .stackOverflow
  | .stackUnderflow => .stackUnderflow
  | .memoryOutOfRange _ => .memoryOutOfRange
  | .protectedWrite _ => .protectedWrite
  | .keyOutOfRange _ => .keyOutOfRange

/-- Take a fatal condition: "the only state written is run <- HALT(c)"; the step reports c with its info (rule R210). -/
def State.raiseFatal (s : State) (f : Fatal) : State := (s.setRun (.halt f.code)).report (.fatal f)

/-! ## The numbering of the conditions (60_exceptions.md rule R200) -/

/-- Codes 3 to 7. -/
def FatalCode.number : FatalCode → Nat
  | .stackOverflow => 3
  | .stackUnderflow => 4
  | .memoryOutOfRange => 5
  | .protectedWrite => 6
  | .keyOutOfRange => 7

/-- Codes 0 to 9. -/
def Condition.number : Condition → Nat
  | .none => 0
  | .unknownOpcode _ => 1
  | .invalidOperandIndex _ => 2
  | .fatal f => f.code.number
  | .waitingForKey _ => 8
  | .halted _ => 9

/-- The info of a fatal condition (rule R200). -/
def Fatal.info : Fatal → Option Nat
  | .stackOverflow | .stackUnderflow => .none
  | .memoryOutOfRange a | .protectedWrite a => .some a
  | .keyOutOfRange v => .some v.toNat

/-- The info field of rule R200. -/
def Condition.info : Condition → Option Nat
  | .none => .none
  | .unknownOpcode w | .invalidOperandIndex w => .some w.toNat
  | .fatal f => f.info
  | .waitingForKey x => .some x.val
  | .halted c => .some c.number

end Sys2Proof.Machine
end

