-- ==== Sys2Proof/Machine/Operands.lean ====
section
/-! DEFINITION. The operand forms: registers V[0] to V[x], immediates widened to 16 bits, key indices and the pressed key, and
the checks of the data addresses I + k (20_memory.md rules R55 and R57). -/

namespace Sys2Proof.Machine

/-- The index of every general register and key, in increasing order. -/
def allIx : List Ix := [0, 1, 2, 3, 4, 5, 6, 7, 8, 9, 10, 11, 12, 13, 14, 15]

/-- The registers V[0] to V[x], inclusive, in increasing order (44_index_memory.md rules R176, R177). -/
def regsUpTo (x : Ix) : List Ix := allIx.filter (fun k => decide (k ≤ x))

/-- zext_16(nnn) (30_encoding.md rule R83). -/
def extendAddr (nnn : Addr12) : Word := nnn.setWidth 16

/-- An 8-bit register value in 16-bit address arithmetic (rule R10). -/
def extendByte (b : Byte) : Word := b.setWidth 16

/-- The operand-validity check: the result register of an instruction that also writes the flag may not be VF (43_alu.md rule
R140, 30_encoding.md rule R92). -/
def flagDestValid (x : Ix) : Bool := x != vf

/-- The first of the addresses base, base + 1, ... base + n - 1 that has a property. Addresses are unbounded (rule R55). -/
def firstAddr (p : Nat → Bool) (base n : Nat) : Option Nat := ((List.range n).map (base + ·)).find? p

/-- The data range check: the lowest address that does not exist (rule R55). -/
def firstOutOfRange (base n : Nat) : Option Nat := firstAddr (fun a => decide (Config.memSize ≤ a)) base n

/-- The protected-write check: the lowest address below 0x200 (rule R57). -/
def firstProtected (base n : Nat) : Option Nat := firstAddr (fun a => decide (a < Config.programBase)) base n

/-- The checks of a read of n bytes at base (rule R55). -/
def loadCheck (base n : Nat) : Option Fatal := (firstOutOfRange base n).map .memoryOutOfRange

/-- The checks of a write of n bytes at base: range, then protection (44_index_memory.md rules R175, R176). -/
def storeCheck (base n : Nat) : Option Fatal :=
  match firstOutOfRange base n with
  | .some a => .some (.memoryOutOfRange a)
  | .none => (firstProtected base n).map .protectedWrite

/-- The base of a data access is I (20_memory.md rule R55). -/
def State.base (s : State) : Nat := s.I.toNat

/-- Key k is pressed when keys[k] != 0 (10_state.md rule R35). -/
def State.pressed (s : State) (k : Ix) : Bool := s.getKey k != 0

/-- The least pressed key, if any (45_keys_timers.md rules R193 to R195). -/
def State.leastPressed (s : State) : Option Ix := allIx.find? s.pressed

/-- The key numbered by a register value, if there is one (45_keys_timers.md rule R190). -/
def keyIndex (v : Byte) : Option Ix := if h : v.toNat < 16 then .some ⟨v.toNat, h⟩ else .none

/-- A key's number as a byte (45_keys_timers.md rule R193). -/
def keyCode (k : Ix) : Byte := BitVec.ofNat 8 k.val

end Sys2Proof.Machine
end

