-- ==== Sys2Proof/Machine/Cycle.lean ====
section
/-! DEFINITION. The phases of a step around execute (30_encoding.md rules R95 to R99): fetch, the UnknownOpcode outcome, and
the step of a waiting and of a halted block. -/

namespace Sys2Proof.Machine

/-- Fetch: the word at PC, high byte first, after the range check; PC is not changed (rule R96, 20_memory.md rules R52, R56). -/
def fetch (s : State) : Except Fatal Word :=
  match firstOutOfRange s.PC.toNat 2 with
  | .some a => .error (.memoryOutOfRange a)
  | .none => .ok (wordOfBytes (s.readMem s.PC.toNat) (s.readMem (s.PC.toNat + 1)))

/-- UnknownOpcode: a no-op that advances PC by 2 and reports the word (rule R87, 60_exceptions.md rule R202). -/
def unknownOpcode (w : Word) (s : State) : State := s.advance.report (.unknownOpcode w)

/-- A step in WAIT_KEY(x): it fetches nothing; a pressed key ends the wait past the Fx0A, no key changes nothing
(45_keys_timers.md rule R194). -/
def waitStep (x : Ix) (s : State) : State :=
  match s.leastPressed with
  | .some k => ((s.setV x (keyCode k)).setRun .run).complete
  | .none => s.report (.waitingForKey x)

/-- A step in HALT(c) changes nothing and reports Halted(c) (60_exceptions.md rule R209). -/
def haltedStep (c : FatalCode) (s : State) : State := s.report (.halted c)

/-- Store bytes as they are, with no check: for `State.withFetchWord` only. -/
def State.poke (s : State) (a : Nat) (bytes : List Byte) : State := s.setMem (Memory.writeList s.mem a bytes)

/-- PC where an instruction word can be fetched: PC itself, or the entry point where PC + 1 does not exist. -/
def fetchablePC (pc : Word) : Word := if pc.toNat + 1 < Config.memSize then pc else BitVec.ofNat 16 Config.programBase

end Sys2Proof.Machine
end

