-- ==== Sys2Proof/Machine/Flags.lean ====
section
/-! DEFINITION. The ALU results and flag outcomes (43_alu.md). Each function takes latched operands (00_scope.md rule R12) and
gives the result, modulo 256 (rule R153), and the flag. -/

namespace Sys2Proof.Machine

/-- VF is written with exactly 0 or 1 (10_state.md rule R23). -/
def flagByte (f : Bool) : Byte := if f then 1 else 0

/-- 8xy4: the sum, and the carry "1 if sum > 255 else 0" (rule R147). -/
def addCarry (a b : Byte) : Byte × Bool := (a + b, decide (a.toNat + b.toNat > 255))

/-- a - b, and the flag "1 if a > b else 0", a strict comparison: 8xy5 with a = V[x] (rule R148), 8xy7 with a = V[y] (rule R150). -/
def subNotBorrow (a b : Byte) : Byte × Bool := (a - b, decide (a.toNat > b.toNat))

/-- 8xy6: a >> 1, and the bit shifted out, a AND 1 (rule R149). -/
def shiftRight (a : Byte) : Byte × Bool := (a >>> 1, a &&& 1 != 0)

/-- 8xyE: (a << 1) mod 256, and the bit shifted out, (a AND 0x80) != 0 (rule R151). -/
def shiftLeft (a : Byte) : Byte × Bool := (a <<< 1, a &&& 0x80 != 0)

end Sys2Proof.Machine
end

