-- ==== Sys2Proof/Machine/Alu.lean ====
section
/-! DEFINITION. Register loads and ALU (43_alu.md): 6xkk, 7xkk, 8xy0 to 8xyE, Cxkk. -/

namespace Sys2Proof.Machine

/-- Write V[x], then advance: the instructions of this file with no flag outcome. -/
def writeV (x : Ix) (b : Byte) (s : State) : Host.Outcome State Fault Refusal := .next (s.setV x b).complete

/-- Write the flag and V[x] in the order of the rules, then advance; with x = 0xF, InvalidOperandIndex instead (rule R140). -/
def writeFlagV (i : Instr) (x : Ix) (r : Byte × Bool) (s : State) : Host.Outcome State Fault Refusal :=
  if flagDestValid x then .next ((s.setV vf (flagByte r.2)).setV x r.1).complete else .next (s.rejectOperand i)

/-- 6xkk: V[x] <- kk (rule R141). -/
def execLdVxKk (x : Ix) (kk : Byte) (s : State) : Host.Outcome State Fault Refusal := writeV x kk s

/-- 7xkk: V[x] <- (V[x] + kk) mod 256, VF not written (rule R142). -/
def execAddVxKk (x : Ix) (kk : Byte) (s : State) : Host.Outcome State Fault Refusal := writeV x (s.getV x + kk) s

/-- 8xy0: V[x] <- V[y] (rule R143). -/
def execLdVxVy (x y : Ix) (s : State) : Host.Outcome State Fault Refusal := writeV x (s.getV y) s

/-- 8xy1: V[x] <- V[x] OR V[y] (rule R144). -/
def execOr (x y : Ix) (s : State) : Host.Outcome State Fault Refusal := writeV x (s.getV x ||| s.getV y) s

/-- 8xy2: V[x] <- V[x] AND V[y] (rule R145). -/
def execAnd (x y : Ix) (s : State) : Host.Outcome State Fault Refusal := writeV x (s.getV x &&& s.getV y) s

/-- 8xy3: V[x] <- V[x] XOR V[y] (rule R146). -/
def execXor (x y : Ix) (s : State) : Host.Outcome State Fault Refusal := writeV x (s.getV x ^^^ s.getV y) s

/-- 8xy4: add with carry out to VF (rule R147). -/
def execAddVxVy (x y : Ix) (s : State) : Host.Outcome State Fault Refusal :=
  writeFlagV (.addVxVy x y) x (addCarry (s.getV x) (s.getV y)) s

/-- 8xy5: V[x] - V[y] (rule R148). -/
def execSub (x y : Ix) (s : State) : Host.Outcome State Fault Refusal :=
  writeFlagV (.sub x y) x (subNotBorrow (s.getV x) (s.getV y)) s

/-- 8xy6: V[x] >> 1; y is ignored (rule R149). -/
def execShr (x y : Ix) (s : State) : Host.Outcome State Fault Refusal :=
  writeFlagV (.shr x y) x (shiftRight (s.getV x)) s

/-- 8xy7: V[y] - V[x] (rule R150). -/
def execSubn (x y : Ix) (s : State) : Host.Outcome State Fault Refusal :=
  writeFlagV (.subn x y) x (subNotBorrow (s.getV y) (s.getV x)) s

/-- 8xyE: V[x] << 1; y is ignored (rule R151). -/
def execShl (x y : Ix) (s : State) : Host.Outcome State Fault Refusal :=
  writeFlagV (.shl x y) x (shiftLeft (s.getV x)) s

/-- Cxkk: V[x] <- rnd AND kk, with rnd a free byte (rule R152). -/
def execRnd (x : Ix) (kk : Byte) (s : State) : Host.Outcome State Fault Refusal :=
  writeV x (s.nextRnd &&& kk) s.drawRnd

end Sys2Proof.Machine
end

