-- ==== Sys2Proof/Machine/Control.lean ====
section
/-! DEFINITION. Control transfer (41_control_flow.md): 00EE, 1nnn, 2nnn, Bnnn. All four set PC and are not advanced. -/

namespace Sys2Proof.Machine

/-- 00EE: PC <- stack[SP], SP <- SP - 1; on an empty stack StackUnderflow (rule R120). The entry is not cleared (10_state.md
rule R29). -/
def execRet (s : State) : Host.Outcome State Fault Refusal :=
  match s.SP with
  | .none => .next (s.raiseFatal .stackUnderflow)
  | .some j => .next ((s.setSP (prevSP j)).redirect (s.getStack j))

/-- 1nnn: PC <- zext_16(nnn) (rule R121). -/
def execJp (nnn : Addr12) (s : State) : Host.Outcome State Fault Refusal := .next (s.redirect (extendAddr nnn))

/-- 2nnn: push the address of the next instruction and jump; on a full stack StackOverflow (rules R122, R124). -/
def execCall (nnn : Addr12) (s : State) : Host.Outcome State Fault Refusal :=
  match nextSP s.SP with
  | .none => .next (s.raiseFatal .stackOverflow)
  | .some j => .next (((s.setSP (.some j)).setStack j (s.PC + 2)).redirect (extendAddr nnn))

/-- Bnnn: PC <- zext_16(nnn) + V[0], not masked (rule R123). -/
def execJpV0 (nnn : Addr12) (s : State) : Host.Outcome State Fault Refusal :=
  .next (s.redirect (extendAddr nnn + extendByte (s.getV 0)))

end Sys2Proof.Machine
end

