-- ==== Sys2Proof/Machine/Display.lean ====
section
/-! DEFINITION. Display instructions (40_display.md): 00E0, Dxyn. -/

namespace Sys2Proof.Machine

/-- 00E0: clear the framebuffer and set drawFlag (rule R110). -/
def execCls (s : State) : Host.Outcome State Fault Refusal :=
  .next ((s.setFb Framebuffer.clear).setDrawFlag true).complete

/-- (cy + r) mod 32 (rules R112, R113). -/
def wrapRow (n : Nat) : Fin 32 := ⟨n % 32, Nat.mod_lt _ (by decide)⟩
/-- (cx + c) mod 64 (rules R112, R113). -/
def wrapCol (n : Nat) : Fin 64 := ⟨n % 64, Nat.mod_lt _ (by decide)⟩

/-- Column c of a sprite byte: bit 7 - c, so that bit 7 is the leftmost pixel (rule R114). -/
def spriteBit (b : Byte) (c : Nat) : Bool := b.getLsbD (7 - c)

/-- One pass of the inner loop of rule R112 at a wrapped pixel: the framebuffer and the collision so far. -/
def drawPixel (row : Fin 32) (col : Fin 64) (bit : Bool) (d : Framebuffer × Bool) : Framebuffer × Bool :=
  if bit then (Framebuffer.put d.1 row col (!(Framebuffer.get d.1 row col)), d.2 || Framebuffer.get d.1 row col) else d

/-- The 8 columns of one sprite row (rule R112). -/
def drawRow (cx : Nat) (row : Fin 32) (b : Byte) (d : Framebuffer × Bool) : Framebuffer × Bool :=
  (List.range Config.spriteWidth).foldl (fun d c => drawPixel row (wrapCol (cx + c)) (spriteBit b c) d) d

/-- The n rows of a sprite at base, drawn at column cx and row cy (rule R112). -/
def drawSprite (m : Memory) (base cx cy n : Nat) (fb : Framebuffer) : Framebuffer × Bool :=
  (List.range n).foldl (fun d r => drawRow cx (wrapRow (cy + r)) (Memory.read m (base + r)) d) (fb, false)

/-- Dxyn: draw the n bytes at I at (V[x], V[y]) by XOR; VF <- collision; drawFlag <- 1 (rules R112 to R116). -/
def execDrw (x y n : Ix) (s : State) : Host.Outcome State Fault Refusal :=
  match loadCheck s.base n.val with
  | .some f => .next (s.raiseFatal f)
  | .none =>
    let d := drawSprite s.mem s.base (s.getV x).toNat (s.getV y).toNat n.val s.fb
    .next (((s.setFb d.1).setV vf (flagByte d.2)).setDrawFlag true).complete

end Sys2Proof.Machine
end

