-- ==== Sys2Proof/Machine/Index.lean ====
section
/-! DEFINITION. The index register and memory transfers (44_index_memory.md): Annn, Fx1E, Fx29, Fx33, Fx55, Fx65. -/

namespace Sys2Proof.Machine

/-- Write I, then advance. -/
def writeI (a : Word) (s : State) : Host.Outcome State Fault Refusal := .next (s.setI a).complete

/-- Annn: I <- zext_16(nnn) (rule R170). -/
def execLdI (nnn : Addr12) (s : State) : Host.Outcome State Fault Refusal := writeI (extendAddr nnn) s

/-- Fx1E: I <- trunc_16(I + V[x]), VF not written (rules R171, R172). -/
def execAddIVx (x : Ix) (s : State) : Host.Outcome State Fault Refusal := writeI (s.I + extendByte (s.getV x)) s

/-- Fx29: I <- V[x] * 5, the full byte (rule R174). -/
def execLdFVx (x : Ix) (s : State) : Host.Outcome State Fault Refusal := writeI (extendByte (s.getV x) * 5) s

/-- Store bytes at I after the checks of every address, then advance; I is unchanged (rules R175, R176; 20_memory.md rule R60). -/
def storeAtI (bytes : List Byte) (s : State) : Host.Outcome State Fault Refusal :=
  match storeCheck s.base bytes.length with
  | .some f => .next (s.raiseFatal f)
  | .none => .next (s.setMem (Memory.writeList s.mem s.base bytes)).complete

/-- The three decimal digits of a byte, hundreds first (rule R175). -/
def decimalDigits (v : Byte) : List Byte :=
  [BitVec.ofNat 8 (v.toNat / 100), BitVec.ofNat 8 (v.toNat / 10 % 10), BitVec.ofNat 8 (v.toNat % 10)]

/-- Fx33: store the decimal digits of V[x] at I, I+1, I+2 (rule R175). -/
def execLdBVx (x : Ix) (s : State) : Host.Outcome State Fault Refusal := storeAtI (decimalDigits (s.getV x)) s

/-- Fx55: memory[I..I+x] = V[0..x] inclusive (rule R176). -/
def execLdMemVx (x : Ix) (s : State) : Host.Outcome State Fault Refusal := storeAtI ((regsUpTo x).map s.getV) s

/-- V[k] <- mem[base + k] for each listed register. -/
def loadRegs (m : Memory) (base : Nat) (ks : List Ix) (s : State) : State :=
  ks.foldl (fun t k => t.setV k (Memory.read m (base + k.val))) s

/-- Fx65: V[0..x] inclusive = memory[I..I+x] (rule R177). -/
def execLdVxMem (x : Ix) (s : State) : Host.Outcome State Fault Refusal :=
  match loadCheck s.base (x.val + 1) with
  | .some f => .next (s.raiseFatal f)
  | .none => .next (loadRegs s.mem s.base (regsUpTo x) s).complete

end Sys2Proof.Machine
end

