-- ==== Sys2Proof/Machine/Keys.lean ====
section
/-! DEFINITION. Keys and timers (45_keys_timers.md): Ex9E, ExA1, Fx07, Fx0A, Fx15, Fx18. -/

namespace Sys2Proof.Machine

/-- Skip on the key numbered V[x], pressed or not; KeyOutOfRange when there is no such key (rules R190, R191). -/
def skipOnKey (x : Ix) (wanted : Bool) (s : State) : Host.Outcome State Fault Refusal :=
  match keyIndex (s.getV x) with
  | .none => .next (s.raiseFatal (.keyOutOfRange (s.getV x)))
  | .some k => .next (s.skipIf (s.pressed k == wanted)).complete

/-- Ex9E: skip if the key numbered V[x] is pressed (rule R190). -/
def execSkp (x : Ix) (s : State) : Host.Outcome State Fault Refusal := skipOnKey x true s

/-- ExA1: skip if the key numbered V[x] is not pressed (rule R191). -/
def execSknp (x : Ix) (s : State) : Host.Outcome State Fault Refusal := skipOnKey x false s

/-- Fx07: V[x] <- DT (rule R192). -/
def execLdVxDt (x : Ix) (s : State) : Host.Outcome State Fault Refusal := .next (s.setV x s.DT).complete

/-- Fx0A: with a key pressed V[x] <- the least such key; with none the block enters WAIT_KEY(x), PC unchanged, and reports
WaitingForKey (rules R193, R195). -/
def execLdVxK (x : Ix) (s : State) : Host.Outcome State Fault Refusal :=
  match s.leastPressed with
  | .some k => .next (s.setV x (keyCode k)).complete
  | .none => .next ((s.setRun (.waitKey x)).report (.waitingForKey x))

/-- Fx15: DT <- V[x] (rule R196). -/
def execLdDtVx (x : Ix) (s : State) : Host.Outcome State Fault Refusal := .next (s.setDT (s.getV x)).complete

/-- Fx18: ST <- V[x] (rule R197). -/
def execLdStVx (x : Ix) (s : State) : Host.Outcome State Fault Refusal := .next (s.setST (s.getV x)).complete

end Sys2Proof.Machine
end

