-- ==== Sys2Proof/Machine/Skips.lean ====
section
/-! DEFINITION. Conditional skips (42_skips.md): 3xkk, 4xkk, 5xy0, 9xy0. -/

namespace Sys2Proof.Machine

/-- Skip if a condition holds, then advance (30_encoding.md rules R97 to R99). -/
def skipWhen (taken : Bool) (s : State) : Host.Outcome State Fault Refusal := .next (s.skipIf taken).complete

/-- 3xkk: skip if V[x] == kk (rule R130). -/
def execSeVxKk (x : Ix) (kk : Byte) (s : State) : Host.Outcome State Fault Refusal := skipWhen (s.getV x == kk) s

/-- 4xkk: skip if V[x] != kk (rule R131). -/
def execSneVxKk (x : Ix) (kk : Byte) (s : State) : Host.Outcome State Fault Refusal := skipWhen (s.getV x != kk) s

/-- 5xy0: skip if V[x] == V[y] (rule R132). -/
def execSeVxVy (x y : Ix) (s : State) : Host.Outcome State Fault Refusal := skipWhen (s.getV x == s.getV y) s

/-- 9xy0: skip if V[x] != V[y] (rule R133). -/
def execSneVxVy (x y : Ix) (s : State) : Host.Outcome State Fault Refusal := skipWhen (s.getV x != s.getV y) s

end Sys2Proof.Machine
end

