-- ==== Sys2Proof/Machine/Step.lean ====
section
/-! DEFINITION. One step (30_encoding.md rule R95), in the order of 60_exceptions.md rule R211, and `State.withFetchWord`. -/

namespace Sys2Proof.Machine

/-- One fetch-decode-execute-advance cycle. The run state is tested first (rules R95, R211). -/
def step (s : State) : Host.Outcome State Fault Refusal :=
  match s.run with
  | .halt c => .next (haltedStep c s)
  | .waitKey x => .next (waitStep x s)
  | .run =>
    match fetch s with
    | .error f => .next (s.raiseFatal f)
    | .ok w =>
      match decodeWord w with
      | .error _ => .next (unknownOpcode w s)
      | .ok i => exec i s

/-- The state whose next step fetches and runs the word with the table's bits `w`: the word's bytes at PC, the run state RUN,
and PC at the entry point where no word can be fetched at PC (notes/assumptions/6.md). -/
def State.withFetchWord (s : State) (nbits w : Nat) : State :=
  ((s.setPC (fetchablePC s.PC)).setRun .run).poke (fetchablePC s.PC).toNat (bytesOfWord (tableWord nbits w))

end Sys2Proof.Machine
end

