-- ==== Sys2Proof/Machine/HostOps.lean ====
section
/-! DEFINITION. The operations of the host between steps (60_exceptions.md rules R221 to R227), and a run's events: any order of
steps and host operations. -/

namespace Sys2Proof.Machine

/-- A timer stops at 0 (rule R216). -/
def tickTimer (t : Byte) : Byte := if t.toNat > 0 then t - 1 else t

/-- tick: DT and ST count down; allowed in every run state (rule R221). -/
def State.hostTick (s : State) : State := (s.setDT (tickTimer s.DT)).setST (tickTimer s.ST)

/-- setKey(k, v): allowed in every run state (rule R222). -/
def State.hostSetKey (s : State) (k : Ix) (v : Byte) : State := s.setKey k v

/-- clearDrawFlag(): allowed in every run state (rule R223). -/
def State.hostClearDrawFlag (s : State) : State := s.setDrawFlag false

/-- What load gives back (rule R225). -/
inductive LoadResult where
  | ok
  | programTooLarge
  deriving DecidableEq, Repr

/-- A load is allowed after reset, before the first step, and once (rules R225, R227; notes/assumptions/4.md). -/
def State.loadAllowed (s : State) : Bool := s.result.isNone && !s.loaded

/-- load(bytes): copy them to 0x200 on, or nothing when they exceed 3584; PC and registers are not touched; refused at any
other time (rule R225). -/
def State.hostLoad (s : State) (bytes : List Byte) : Host.Outcome (State × LoadResult) Fault Refusal :=
  if s.loadAllowed then
    if bytes.length > Config.maxProgram then .next (s, .programTooLarge)
    else .next ({ s.setMem (Memory.writeList s.mem Config.programBase bytes) with loaded := true }, .ok)
  else .refused .lateLoad

/-- reset(): the whole state at its reset value, at any time (rules R226, R243). The random source goes on: reset does not fix
it (70_reset_and_hazards.md rule R242; notes/assumptions/2.md). -/
def State.hostReset (s : State) : State := { State.reset with draws := s.draws }

/-- What the host may read between steps, each changing nothing (rule R224): the framebuffer. -/
def State.hostFramebuffer (s : State) : Framebuffer := s.fb
/-- drawFlag (rule R224). -/
def State.hostDrawFlag (s : State) : Bool := s.drawFlag
/-- ST, the sound output (rules R224, R30). -/
def State.hostSound (s : State) : Byte := s.ST
/-- The step result (cond, info, drawFlag) of the last step, with the numbers of rule R200 (rules R201, R224). -/
def State.hostResult (s : State) : Option (Nat × Option Nat × Bool) :=
  s.result.map (fun r => (r.cond.number, r.cond.info, r.drawFlag))

/-- One element of a run: a step or a host operation (rule R227). -/
inductive Event where
  | step
  | tick
  | setKey (k : Ix) (v : Byte)
  | clearDrawFlag
  | load (bytes : List Byte)
  | reset
  deriving DecidableEq, Repr

/-- One event, an atomic transition (00_scope.md rule R6). -/
def runEvent (e : Event) (s : State) : Host.Outcome State Fault Refusal :=
  match e with
  | .step => step s
  | .tick => .next s.hostTick
  | .setKey k v => .next (s.hostSetKey k v)
  | .clearDrawFlag => .next s.hostClearDrawFlag
  | .load bytes =>
    match s.hostLoad bytes with
    | .next r => .next r.1
    | .fault f => .fault f
    | .refused r => .refused r
  | .reset => .next s.hostReset

/-- A run: events in one total order (rule R227), stopping at the first refused one. -/
def runEvents : List Event → State → Host.Outcome State Fault Refusal
  | [], s => .next s
  | e :: es, s =>
    match runEvent e s with
    | .next t => runEvents es t
    | .fault f => .fault f
    | .refused r => .refused r

end Sys2Proof.Machine
end

