-- ==== Sys2Proof/Safety.lean ====
section
/-! DEFINITION. The terms claims are stated in: a safe state, what a step leaves unchanged, how an instruction ends, and the
invariants of the machine. -/

namespace Sys2Proof.Machine

/-! ## Safe states -/

/-- A state no fatal condition has stopped (60_exceptions.md rule R210): the block is in RUN or WAIT_KEY. -/
def State.live (s : State) : Prop := ∀ c, s.run ≠ .halt c

/-! ## Frames (00_scope.md rule R13) -/

/-- What may change: the listed registers and stack entries, the named fields, and the bytes from `base` on, `len` of them. PC
and the step result are not part of a footprint; the keys and `loaded` never change in a step. -/
structure Footprint where
  regs : List Ix := []
  I : Bool := false
  SP : Bool := false
  stack : List Ix := []
  DT : Bool := false
  ST : Bool := false
  drawFlag : Bool := false
  run : Bool := false
  fb : Bool := false
  draws : Bool := false
  base : Nat := 0
  len : Nat := 0

/-- Everything outside a footprint keeps its value, every byte of memory and every pixel included (rule R13). -/
structure Unchanged (f : Footprint) (s t : State) : Prop where
  regs : ∀ k, k ∉ f.regs → t.getV k = s.getV k
  I : f.I = false → t.I = s.I
  SP : f.SP = false → t.SP = s.SP
  stack : ∀ j, j ∉ f.stack → t.getStack j = s.getStack j
  DT : f.DT = false → t.DT = s.DT
  ST : f.ST = false → t.ST = s.ST
  drawFlag : f.drawFlag = false → t.drawFlag = s.drawFlag
  run : f.run = false → t.run = s.run
  fb : f.fb = false → ∀ row col, t.pixel row col = s.pixel row col
  draws : f.draws = false → t.draws = s.draws
  mem : ∀ a, (a < f.base ∨ f.base + f.len ≤ a) → t.readMem a = s.readMem a
  keys : ∀ k, t.getKey k = s.getKey k
  loaded : t.loaded = s.loaded

/-- What each instruction may write: the "writes" column of 10_state.md rule R24 for the registers, and for the rest of the state
the lines of its rule. `run` is there where the rule raises a fatal condition or waits. -/
def footprint (i : Instr) (s : State) : Footprint :=
  match i with
  | .cls => { fb := true, drawFlag := true }
  | .ret => { SP := true, run := true }
  | .jp _ | .jpV0 _ => {}
  | .call _ => { SP := true, stack := (nextSP s.SP).toList, run := true }
  | .seVxKk _ _ | .sneVxKk _ _ | .seVxVy _ _ | .sneVxVy _ _ => {}
  | .ldVxKk x _ | .addVxKk x _ | .ldVxVy x _ | .or x _ | .and x _ | .xor x _ => { regs := [x] }
  | .addVxVy x _ | .sub x _ | .shr x _ | .subn x _ | .shl x _ => { regs := [x, vf] }
  | .ldI _ | .addIVx _ | .ldFVx _ => { I := true }
  | .rnd x _ => { regs := [x], draws := true }
  | .drw _ _ _ => { regs := [vf], fb := true, drawFlag := true, run := true }
  | .skp _ | .sknp _ => { run := true }
  | .ldVxDt x => { regs := [x] }
  | .ldVxK x => { regs := [x], run := true }
  | .ldDtVx _ => { DT := true }
  | .ldStVx _ => { ST := true }
  | .ldBVx _ => { base := s.base, len := 3, run := true }
  | .ldMemVx x => { base := s.base, len := x.val + 1, run := true }
  | .ldVxMem x => { regs := regsUpTo x, run := true }

/-- A step or an instruction ends at an address and reports a condition with drawFlag as it then is (60_exceptions.md rule R201). -/
def EndsAt (pc : Word) (c : Condition) (t : State) : Prop := t.PC = pc ∧ t.result = .some ⟨c, t.drawFlag⟩

/-- A fatal condition was taken: HALT with its code, PC kept, the condition reported, nothing else changed (rule R210). -/
def Halts (f : Fatal) (s t : State) : Prop :=
  t.run = .halt f.code ∧ EndsAt s.PC (.fatal f) t ∧ Unchanged { run := true } s t

/-! ## Invariants -/

/-- Memory is in its canonical form, lists only addresses that exist, and below 0x200 reads as after reset (20_memory.md rules
R50, R54). -/
def State.MemInv (s : State) : Prop :=
  Memory.wf s.mem = true ∧ Memory.inSpace s.mem = true ∧ ∀ a < Config.programBase, s.readMem a = resetByte a

/-- "no defined instruction can carry PC past 0x10FE" (10_state.md rule R27), return addresses are at most 0x1000
(41_control_flow.md rule R122), and a waiting block waits where an instruction can be fetched. -/
def State.AddrInv (s : State) : Prop :=
  s.PC.toNat ≤ 0x10FE ∧ (∀ j, (s.getStack j).toNat ≤ 0x1000) ∧ ∀ x, s.run = .waitKey x → s.PC.toNat + 1 < Config.memSize

/-- A block in WAIT_KEY(x) has taken a step and stands at an Fx0A that names x (45_keys_timers.md rules R193, R194). -/
def State.WaitInv (s : State) : Prop :=
  ∀ x, s.run = .waitKey x → s.result.isSome = true ∧ ∃ w, fetch s = .ok w ∧ decodeWord w = .ok (.ldVxK x)

/-- The invariant of the machine. -/
def State.Inv (s : State) : Prop := s.MemInv ∧ s.AddrInv ∧ s.WaitInv

end Sys2Proof.Machine
end

