-- ==== Sys2Proof/WellFormed.lean ====
section
/-! DEFINITION. What is well formed: an instruction (its operands are in the ranges its rule lists), a word (it matches a row
of the opcode table, 30_encoding.md rule R85) and a program image (60_exceptions.md rule R225). The bounds of the fields
themselves (x, y, n below 16, kk a byte, nnn 12 bits) are carried by the operands' types. -/

namespace Sys2Proof

/-- The operand ranges of 43_alu.md rules R147 to R151: the five instructions that write both a result and a flag list
"x register index (0-14)"; every other instruction takes every operand value (rule R140). A machine that meets an
instruction which is not well formed still runs: it reports InvalidOperandIndex (rule R140). -/
def Instr.wellFormed : Instr → Bool
  | .addVxVy x _ | .sub x _ | .shr x _ | .subn x _ | .shl x _ => x != vf
  | .cls | .ret | .jp _ | .call _ | .seVxKk _ _ | .sneVxKk _ _ | .seVxVy _ _ | .ldVxKk _ _ | .addVxKk _ _
  | .ldVxVy _ _ | .or _ _ | .and _ _ | .xor _ _ | .sneVxVy _ _ | .ldI _ | .jpV0 _ | .rnd _ _ | .drw _ _ _
  | .skp _ | .sknp _ | .ldVxDt _ | .ldVxK _ | .ldDtVx _ | .ldStVx _ | .addIVx _ | .ldFVx _ | .ldBVx _
  | .ldMemVx _ | .ldVxMem _ => true

/-- One row of the opcode table (rule R85): "A word w selects a row when (w AND mask) == match". -/
structure OpcodeRow where
  pattern : String
  code : Word
  mask : Word
  deriving DecidableEq, Repr

/-- A word selects a row (rule R85). -/
def OpcodeRow.selects (r : OpcodeRow) (w : Word) : Bool := w &&& r.mask == r.code

/-- The rows of format FIX and ADDR of families 0 to 2 and the skips on an immediate (rule R85). -/
def opcodeRows0 : List OpcodeRow :=
  [⟨"00E0", 0x00E0, 0xFFFF⟩, ⟨"00EE", 0x00EE, 0xFFFF⟩, ⟨"1nnn", 0x1000, 0xF000⟩, ⟨"2nnn", 0x2000, 0xF000⟩,
   ⟨"3xkk", 0x3000, 0xF000⟩, ⟨"4xkk", 0x4000, 0xF000⟩, ⟨"5xy0", 0x5000, 0xF00F⟩, ⟨"6xkk", 0x6000, 0xF000⟩,
   ⟨"7xkk", 0x7000, 0xF000⟩]

/-- The rows of family 8 (rule R85). -/
def opcodeRows8 : List OpcodeRow :=
  [⟨"8xy0", 0x8000, 0xF00F⟩, ⟨"8xy1", 0x8001, 0xF00F⟩, ⟨"8xy2", 0x8002, 0xF00F⟩, ⟨"8xy3", 0x8003, 0xF00F⟩,
   ⟨"8xy4", 0x8004, 0xF00F⟩, ⟨"8xy5", 0x8005, 0xF00F⟩, ⟨"8xy6", 0x8006, 0xF00F⟩, ⟨"8xy7", 0x8007, 0xF00F⟩,
   ⟨"8xyE", 0x800E, 0xF00F⟩]

/-- The rows of families 9 to E (rule R85). -/
def opcodeRows9 : List OpcodeRow :=
  [⟨"9xy0", 0x9000, 0xF00F⟩, ⟨"Annn", 0xA000, 0xF000⟩, ⟨"Bnnn", 0xB000, 0xF000⟩, ⟨"Cxkk", 0xC000, 0xF000⟩,
   ⟨"Dxyn", 0xD000, 0xF000⟩, ⟨"Ex9E", 0xE09E, 0xF0FF⟩, ⟨"ExA1", 0xE0A1, 0xF0FF⟩]

/-- The rows of family F (rule R85). -/
def opcodeRowsF : List OpcodeRow :=
  [⟨"Fx07", 0xF007, 0xF0FF⟩, ⟨"Fx0A", 0xF00A, 0xF0FF⟩, ⟨"Fx15", 0xF015, 0xF0FF⟩, ⟨"Fx18", 0xF018, 0xF0FF⟩,
   ⟨"Fx1E", 0xF01E, 0xF0FF⟩, ⟨"Fx29", 0xF029, 0xF0FF⟩, ⟨"Fx33", 0xF033, 0xF0FF⟩, ⟨"Fx55", 0xF055, 0xF0FF⟩,
   ⟨"Fx65", 0xF065, 0xF0FF⟩]

/-- The complete opcode table, 34 rows, written from rule R85 independently of the decoder (which follows rule R86). -/
def opcodeTable : List OpcodeRow := opcodeRows0 ++ opcodeRows8 ++ opcodeRows9 ++ opcodeRowsF

/-- A word is a defined instruction when it selects a row; the rest is the UnknownOpcode space (rule R88). -/
def wordDefined (w : Word) : Bool := opcodeTable.any (·.selects w)

/-- A program image fits: at most 3584 bytes (60_exceptions.md rule R225). -/
def imageFits (bytes : List Byte) : Bool := bytes.length ≤ Config.maxProgram

end Sys2Proof
end

