-- ==== Sys2Proof/Certificates/Slice0/Obligations.lean ====
section
/-! DEFINITION. The statements for the provers. Every result statement has as its conclusion that `exec` answers a next state,
gives the values its rule gives, and says that nothing else changed (`Unchanged`, 00_scope.md rule R13). -/

open Sys2Proof Sys2Proof.Machine

/-! ## Encoding (30_encoding.md) -/

/-- Words written out from the patterns of rule R85, one per format, and one word of each line of rule R88.
That the latter are rejected is strict decoding, the spec's own decision (92_eei_decisions.md D5, notes/assumptions/13.md). -/
def Obligations.WrittenWordsDecode : Prop :=
  decodeWord 0x00E0 = .ok .cls ∧ decodeWord 0x2210 = .ok (.call 0x210) ∧ decodeWord 0x3342 = .ok (.seVxKk 3 0x42) ∧
  decodeWord 0x8AB4 = .ok (.addVxVy 0xA 0xB) ∧ decodeWord 0xD015 = .ok (.drw 0 1 5) ∧ decodeWord 0xF265 = .ok (.ldVxMem 2) ∧
  decodeWord 0x0123 = .error (.unknownOpcode 0x0123) ∧ decodeWord 0x5121 = .error (.unknownOpcode 0x5121) ∧
  decodeWord 0x8128 = .error (.unknownOpcode 0x8128) ∧ decodeWord 0x9121 = .error (.unknownOpcode 0x9121) ∧
  decodeWord 0xE19F = .error (.unknownOpcode 0xE19F) ∧ decodeWord 0xF000 = .error (.unknownOpcode 0xF000)

/-- For every instruction, with every operand at every value, decoding its word gives it back (rules R81, R82, R85), and so
does decoding its two bytes as memory stores them, with any bytes after them (20_memory.md rule R52). -/
def Obligations.DecodeOfEncodeIsIdentity : Prop :=
  ∀ i : Instr, decodeWord (encode i) = .ok i ∧ ∀ rest, decode (bytesOfWord (encode i) ++ rest) = .ok (i, rest)

/-- A word the decoder accepts is the word the encoder gives: each instruction has one word (rule R85), and so the word
InvalidOperandIndex reports is the word fetched (notes/assumptions/8.md). That no digit of the word is ignored is strict
decoding, the spec's own decision (rule R91 by 92_eei_decisions.md D5, notes/assumptions/13.md). -/
def Obligations.EncodeOfDecodeIsIdentity : Prop :=
  ∀ (w : Word) (i : Instr), decodeWord w = .ok i → encode i = w

/-- The decoder of rule R86 accepts exactly the words that select a row of the table of rule R85, and answers UnknownOpcode with
the word for every other (rule R88). That is strict decoding, the spec's own decision (rule R91 by 92_eei_decisions.md D5,
notes/assumptions/13.md). -/
def Obligations.DecoderAcceptsExactlyTheTable : Prop :=
  ∀ w : Word, (wordDefined w = true → ∃ i, decodeWord w = .ok i) ∧
    (wordDefined w = false → decodeWord w = .error (.unknownOpcode w))

/-- The table has 34 rows and "the rows are disjoint, so at most one row matches any word" (rule R85). -/
def Obligations.OpcodeRowsAreDisjoint : Prop :=
  opcodeTable.length = 34 ∧
    ∀ (w : Word) (r r' : OpcodeRow), r ∈ opcodeTable → r' ∈ opcodeTable → r.selects w = true → r'.selects w = true → r = r'

/-! ## The step cycle (30_encoding.md rules R95 to R99, 60_exceptions.md) -/

/-- In RUN, when PC and PC + 1 exist and the bytes there decode to an instruction, the step is `exec` of that instruction at the
same state: nothing is added around it. -/
def Obligations.StepRunsTheDecodedInstruction : Prop :=
  ∀ (s : State) (i : Instr) (rest : List Byte), s.run = .run → s.PC.toNat + 1 < 0x1000 →
    decode [s.readMem s.PC.toNat, s.readMem (s.PC.toNat + 1)] = .ok (i, rest) → step s = exec i s

/-- Rule R96: the word fetched is (memory[PC] << 8) | memory[PC+1]; PC >= 0x1000 raises MemoryOutOfRange(PC), PC = 0xFFF raises
MemoryOutOfRange(PC + 1). -/
def Obligations.FetchReadsTheWordAtPC : Prop :=
  ∀ s : State,
    (s.PC.toNat + 1 < 0x1000 →
      ∃ w, fetch s = .ok w ∧ w.toNat = (s.readMem s.PC.toNat).toNat * 256 + (s.readMem (s.PC.toNat + 1)).toNat) ∧
    (0x1000 ≤ s.PC.toNat → fetch s = .error (.memoryOutOfRange s.PC.toNat)) ∧
    (s.PC.toNat = 0xFFF → fetch s = .error (.memoryOutOfRange (s.PC.toNat + 1)))

/-- Rule R56 of 20_memory.md: a fetch at PC >= 0xFFF raises MemoryOutOfRange with 0x1000 or PC; nothing is executed and PC is
unchanged; the block halts. The
rule is the spec's own decision (92_eei_decisions.md D8). -/
def Obligations.FetchOutOfRangeHalts : Prop :=
  ∀ s : State, s.run = .run → 0xFFF ≤ s.PC.toNat →
    ∃ t, step s = .next t ∧ Halts (.memoryOutOfRange (if s.PC.toNat = 0xFFF then 0x1000 else s.PC.toNat)) s t

/-- Rules R87 and R202: a word that is no row of the table is a no-op: PC + 2, the condition UnknownOpcode with the word. -/
def Obligations.UnknownOpcodeIsANoOp : Prop :=
  ∀ (s : State) (w : Word), s.run = .run → fetch s = .ok w → wordDefined w = false →
    ∃ t, step s = .next t ∧ EndsAt (s.PC + 2) (.unknownOpcode w) t ∧ Unchanged {} s t

/-- Rule R140 (and R203): the five instructions that write V[x] and a flag are rejected exactly when x = 0xF, with PC + 2 and no
other effect; no other instruction is. The policy is the spec's own decision (92_eei_decisions.md D6); that the word reported is
`encode` of the instruction is the model's (notes/assumptions/8.md). -/
def Obligations.InvalidOperandIndexExactlyWhenXIsVF : Prop :=
  ∀ (i : Instr) (s : State),
    (i.wellFormed = false → ∃ t, exec i s = .next t ∧ EndsAt (s.PC + 2) (.invalidOperandIndex (encode i)) t ∧ Unchanged {} s t) ∧
    (i.wellFormed = true → ∀ t w, exec i s = .next t → t.result ≠ .some ⟨.invalidOperandIndex w, t.drawFlag⟩) ∧
    (i.wellFormed = false ↔ ∃ y : Ix, i = .addVxVy 15 y ∨ i = .sub 15 y ∨ i = .shr 15 y ∨ i = .subn 15 y ∨ i = .shl 15 y)

/-- Rule R209, the spec's own decision (92_eei_decisions.md D11): a step in HALT(c) changes nothing and reports Halted(c). -/
def Obligations.HaltedStepChangesNothing : Prop :=
  ∀ (s : State) (c : FatalCode), s.run = .halt c →
    ∃ t, step s = .next t ∧ EndsAt s.PC (.halted c) t ∧ Unchanged {} s t

/-- Rule R194: a step in WAIT_KEY(x) fetches nothing; with a key pressed V[x] is the least pressed key, run is RUN, PC + 2 and
None is reported; with none, WaitingForKey is reported and no state changes. The rule is the spec's own decision
(92_eei_decisions.md D14). -/
def Obligations.WaitStepTakesTheLeastKeyOrWaits : Prop :=
  ∀ (s : State) (x : Ix), s.run = .waitKey x →
    (∀ k : Ix, s.getKey k ≠ 0 → (∀ j < k, s.getKey j = 0) →
      ∃ t, step s = .next t ∧ (t.getV x).toNat = k.val ∧ t.run = .run ∧ EndsAt (s.PC + 2) .none t ∧
        Unchanged { regs := [x], run := true } s t) ∧
    ((∀ k : Ix, s.getKey k = 0) → ∃ t, step s = .next t ∧ EndsAt s.PC (.waitingForKey x) t ∧ Unchanged {} s t)

/-- Where a normally completed instruction leaves PC (30_encoding.md rule R99): the target of a jump, call or return; +4 for a
skip taken, +2 for a skip not taken; +2 for every other. -/
def Sys2Proof.Machine.NetPC (i : Instr) (s t : State) : Prop :=
  match i with
  | .ret => ∃ j, s.SP = .some j ∧ t.PC = s.getStack j
  | .jp nnn | .call nnn => t.PC.toNat = nnn.toNat
  | .jpV0 nnn => t.PC.toNat = nnn.toNat + (s.getV 0).toNat
  | .seVxKk x kk => t.PC = if s.getV x = kk then s.PC + 4 else s.PC + 2
  | .sneVxKk x kk => t.PC = if s.getV x ≠ kk then s.PC + 4 else s.PC + 2
  | .seVxVy x y => t.PC = if s.getV x = s.getV y then s.PC + 4 else s.PC + 2
  | .sneVxVy x y => t.PC = if s.getV x ≠ s.getV y then s.PC + 4 else s.PC + 2
  | .skp x => ∃ k : Ix, (s.getV x).toNat = k.val ∧ t.PC = if s.getKey k ≠ 0 then s.PC + 4 else s.PC + 2
  | .sknp x => ∃ k : Ix, (s.getV x).toNat = k.val ∧ t.PC = if s.getKey k = 0 then s.PC + 4 else s.PC + 2
  | _ => t.PC = s.PC + 2

/-- Rule R99: the net effect of one step in RUN on PC, by the condition it reports: by instruction on None, +2 on UnknownOpcode
and InvalidOperandIndex, +0 when Fx0A waits and on a fatal condition; Halted is not reported. -/
def Obligations.NetEffectOnPC : Prop :=
  ∀ s : State, s.run = .run → ∃ t c, step s = .next t ∧ t.result = .some ⟨c, t.drawFlag⟩ ∧
    match c with
    | .none => ∃ w i, fetch s = .ok w ∧ decodeWord w = .ok i ∧ NetPC i s t
    | .unknownOpcode _ | .invalidOperandIndex _ => t.PC = s.PC + 2
    | .waitingForKey x => (∃ w, fetch s = .ok w ∧ decodeWord w = .ok (.ldVxK x)) ∧ t.PC = s.PC
    | .fatal _ => t.PC = s.PC
    | .halted _ => False

/-- Rule R210: when a step of a block that is not halted raises a fatal condition, the only state written is run <- HALT(c), with
the condition reported; and from then on every step reports Halted(c) and changes nothing. The rule is the spec's own decision
(92_eei_decisions.md D10, D11); `result` is the model's record of the report (notes/assumptions/3.md). -/
def Obligations.FatalConditionsArePreciseAndPermanent : Prop :=
  ∀ (s t : State) (c : FatalCode), s.live → step s = .next t → t.run = .halt c →
    (∃ f : Fatal, f.code = c ∧ t = { s with run := .halt c, result := .some ⟨.fatal f, s.drawFlag⟩ }) ∧
    ∀ n : Nat, Sys2Proof.core.run (n + 1) t = .next { t with result := .some ⟨.halted c, t.drawFlag⟩ }

/-- Rule R13: whatever instruction runs, everything outside its footprint keeps its value: registers, flags, stack entries,
timers, bytes of memory, pixels. The footprint of a store computes its address as the instruction does. The convention is the
spec's own decision (92_eei_decisions.md D19). -/
def Obligations.EveryInstructionKeepsItsFrame : Prop :=
  ∀ (i : Instr) (s t : State), exec i s = .next t → Unchanged (footprint i s) s t

/-- Rule R201: every step answers a next state (no fault, no refusal), whose step result is a condition and the value of drawFlag
after the step. The record is the spec's own decision (92_eei_decisions.md D12); that the state keeps it is the model's
(notes/assumptions/3.md). -/
def Obligations.EveryStepReturnsAStepResult : Prop :=
  ∀ s : State, ∃ t c, step s = .next t ∧ t.result = .some ⟨c, t.drawFlag⟩ ∧
    t.hostResult = .some (c.number, c.info, t.drawFlag)

/-! ## Display (40_display.md) -/

/-- Rules R110 and R111: 00E0 clears every pixel, sets drawFlag and changes nothing else. -/
def Obligations.ClearScreen : Prop :=
  decodeWord 0x00E0 = .ok .cls ∧
  ∀ s : State, ∃ t, exec .cls s = .next t ∧ (∀ row col, t.pixel row col = false) ∧ t.drawFlag = true ∧
    EndsAt (s.PC + 2) .none t ∧ Unchanged { fb := true, drawFlag := true } s t

/-- The pixel (row, col) lies under a 1 of the n-byte sprite at I drawn from column cx and row cy: bit 7 - c of byte r is at
((cy + r) mod 32, (cx + c) mod 64) (rules R112 to R114). -/
def Sys2Proof.Machine.UnderSprite (s : State) (cx cy n : Nat) (row : Fin 32) (col : Fin 64) : Prop :=
  ∃ r < n, ∃ c < 8, (s.readMem (s.I.toNat + r)).getLsbD (7 - c) = true ∧ row.val = (cy + r) % 32 ∧ col.val = (cx + c) % 64

/-- Rules R112, R113, R114 and R116: Dxyn flips exactly the pixels under a 1 of the sprite, coordinates latched and wrapped; VF is
1 exactly when a pixel went from 1 to 0, else 0; drawFlag is set; I is unchanged. If a byte of the sprite would be at 0x1000 or
above, MemoryOutOfRange with the lowest such address halts the block and nothing is drawn. The bit order is the spec's own
decision (92_eei_decisions.md D16: "from general knowledge, not in source"), as is the latching (D7). -/
def Obligations.DrawFlipsExactlyTheSpritePixels : Prop :=
  ∀ (x y n : Ix) (s : State),
    decodeWord (encodeXYN 0xD x y (nibble n)) = .ok (.drw x y n) ∧
    (n.val = 0 ∨ s.I.toNat + n.val ≤ 0x1000 →
      ∃ t, exec (.drw x y n) s = .next t ∧
        (∀ row col, t.pixel row col ≠ s.pixel row col ↔ UnderSprite s (s.getV x).toNat (s.getV y).toNat n.val row col) ∧
        ((∃ row col, s.pixel row col = true ∧ t.pixel row col = false) → t.getV 15 = 1) ∧
        (¬ (∃ row col, s.pixel row col = true ∧ t.pixel row col = false) → t.getV 15 = 0) ∧
        t.drawFlag = true ∧ EndsAt (s.PC + 2) .none t ∧ Unchanged { regs := [15], fb := true, drawFlag := true } s t) ∧
    (n.val ≠ 0 → 0x1000 < s.I.toNat + n.val →
      ∃ t, exec (.drw x y n) s = .next t ∧ Halts (.memoryOutOfRange (max s.I.toNat 0x1000)) s t)

/-- Rule R115: Dxy0 reads no memory (it runs whatever I is), and a sprite of zero bytes draws nothing: no pixel changes, VF <- 0,
drawFlag <- 1. For n = 0 the rule is the spec's own decision (92_eei_decisions.md D16). -/
def Obligations.EmptySpriteDrawsNothing : Prop :=
  ∀ (x y n : Ix) (s : State),
    (n.val = 0 ∨ (s.I.toNat + n.val ≤ 0x1000 ∧ ∀ r < n.val, s.readMem (s.I.toNat + r) = 0)) →
      ∃ t, exec (.drw x y n) s = .next t ∧ t.getV 15 = 0 ∧ t.drawFlag = true ∧
        EndsAt (s.PC + 2) .none t ∧ Unchanged { regs := [15], drawFlag := true } s t

/-! ## Control transfer (41_control_flow.md) -/

/-- Rule R120: RET takes PC from stack[SP] as it is and lowers SP by one, the entry kept; on an empty stack StackUnderflow. -/
def Obligations.ReturnPopsTheStack : Prop :=
  decodeWord 0x00EE = .ok .ret ∧
  ∀ s : State,
    (∀ j : Ix, s.SP = .some j →
      ∃ t, exec .ret s = .next t ∧ spNumber t.SP = spNumber s.SP - 1 ∧ EndsAt (s.getStack j) .none t ∧
        Unchanged { SP := true } s t) ∧
    (spNumber s.SP = -1 → ∃ t, exec .ret s = .next t ∧ Halts .stackUnderflow s t)

/-- Rules R121 and R123: JP sets PC to nnn; JP V0 sets PC to nnn + V[0], not masked (so it may be above 0xFFF). -/
def Obligations.JumpsSetPC : Prop :=
  ∀ (nnn : Addr12) (s : State),
    decodeWord (encodeAddr 0x1 nnn) = .ok (.jp nnn) ∧ decodeWord (encodeAddr 0xB nnn) = .ok (.jpV0 nnn) ∧
    (∃ t, exec (.jp nnn) s = .next t ∧ t.PC.toNat = nnn.toNat ∧ EndsAt t.PC .none t ∧ Unchanged {} s t) ∧
    (∃ t, exec (.jpV0 nnn) s = .next t ∧ t.PC.toNat = nnn.toNat + (s.getV 0).toNat ∧ EndsAt t.PC .none t ∧ Unchanged {} s t)

/-- Rule R122: CALL raises SP by one, writes (PC + 2) mod 2^16 there and jumps; with SP = 15 StackOverflow. -/
def Obligations.CallPushesTheNextAddress : Prop :=
  ∀ (nnn : Addr12) (s : State),
    decodeWord (encodeAddr 0x2 nnn) = .ok (.call nnn) ∧
    (spNumber s.SP ≠ 15 →
      ∃ t j, exec (.call nnn) s = .next t ∧ t.SP = .some j ∧ spNumber t.SP = spNumber s.SP + 1 ∧
        (t.getStack j).toNat = (s.PC.toNat + 2) % 65536 ∧ t.PC.toNat = nnn.toNat ∧ EndsAt t.PC .none t ∧
        Unchanged { SP := true, stack := [j] } s t) ∧
    (spNumber s.SP = 15 → ∃ t, exec (.call nnn) s = .next t ∧ Halts .stackOverflow s t)

/-- Rule R124: "CALL then RET restores PC to the instruction following the original CALL, for stack depth 1 through 16": from any
depth 0 to 15, a RET that finds SP and the stack as the CALL left them ends at the CALL's PC + 2 with SP as before the CALL. That PC + 2
is what is pushed is the spec's own decision (92_eei_decisions.md D4). -/
def Obligations.CallThenReturnComesBack : Prop :=
  ∀ (nnn : Addr12) (s t u : State), stackDepth s.SP < 16 → exec (.call nnn) s = .next t → u.SP = t.SP → u.stack = t.stack →
    ∃ v, exec .ret u = .next v ∧ EndsAt (s.PC + 2) .none v ∧ v.SP = s.SP ∧ stackDepth t.SP = stackDepth s.SP + 1

/-- Rule R125: no step leaves SP outside -1 to 15; a CALL at depth 0 to 15 and a RET at depth 1 to 16 succeed; a CALL at depth 16
reports StackOverflow and a RET at depth 0 StackUnderflow, both fatal. -/
def Obligations.StackBoundsAreReported : Prop :=
  ∀ (nnn : Addr12) (s : State),
    (-1 ≤ spNumber s.SP ∧ spNumber s.SP ≤ 15 ∧ (stackDepth s.SP : Int) = spNumber s.SP + 1) ∧
    (stackDepth s.SP < 16 ↔ ∃ t, exec (.call nnn) s = .next t ∧ t.result = .some ⟨.none, s.drawFlag⟩) ∧
    (stackDepth s.SP = 16 ↔ ∃ t, exec (.call nnn) s = .next t ∧ t.result = .some ⟨.fatal .stackOverflow, s.drawFlag⟩) ∧
    (0 < stackDepth s.SP ↔ ∃ t, exec .ret s = .next t ∧ t.result = .some ⟨.none, s.drawFlag⟩) ∧
    (stackDepth s.SP = 0 ↔ ∃ t, exec .ret s = .next t ∧ t.result = .some ⟨.fatal .stackUnderflow, s.drawFlag⟩)

/-! ## Skips (42_skips.md, 45_keys_timers.md) -/

/-- A skip ends with None at PC + 4 when it is taken and at PC + 2 when it is not, and changes nothing else (30_encoding.md rule R99). -/
def Sys2Proof.Machine.Skips (i : Instr) (taken : Prop) (s : State) : Prop :=
  (taken → ∃ t, exec i s = .next t ∧ EndsAt (s.PC + 4) .none t ∧ Unchanged {} s t) ∧
  (¬ taken → ∃ t, exec i s = .next t ∧ EndsAt (s.PC + 2) .none t ∧ Unchanged {} s t)

/-- Rules R130 to R133: SE and SNE with a byte or a register, VF included; with a low nibble that is not 0 the register
forms are UnknownOpcode. -/
def Obligations.CompareSkips : Prop :=
  ∀ (x y : Ix) (kk : Byte) (s : State),
    decodeWord (encodeXKK 0x3 x kk) = .ok (.seVxKk x kk) ∧ decodeWord (encodeXKK 0x4 x kk) = .ok (.sneVxKk x kk) ∧
    decodeWord (encodeXYN 0x5 x y 0) = .ok (.seVxVy x y) ∧ decodeWord (encodeXYN 0x9 x y 0) = .ok (.sneVxVy x y) ∧
    (∀ n : BitVec 4, n ≠ 0 → decodeWord (encodeXYN 0x5 x y n) = .error (.unknownOpcode (encodeXYN 0x5 x y n)) ∧
      decodeWord (encodeXYN 0x9 x y n) = .error (.unknownOpcode (encodeXYN 0x9 x y n))) ∧
    Skips (.seVxKk x kk) (s.getV x = kk) s ∧ Skips (.sneVxKk x kk) (s.getV x ≠ kk) s ∧
    Skips (.seVxVy x y) (s.getV x = s.getV y) s ∧ Skips (.sneVxVy x y) (s.getV x ≠ s.getV y) s

/-- Rules R190 and R191: SKP skips when keys[V[x]] != 0, SKNP when it is 0; V[x] > 0xF raises KeyOutOfRange with V[x]. -/
def Obligations.KeySkips : Prop :=
  ∀ (x : Ix) (s : State),
    decodeWord (encodeXKK 0xE x 0x9E) = .ok (.skp x) ∧ decodeWord (encodeXKK 0xE x 0xA1) = .ok (.sknp x) ∧
    (∀ k : Ix, (s.getV x).toNat = k.val → Skips (.skp x) (s.getKey k ≠ 0) s ∧ Skips (.sknp x) (s.getKey k = 0) s) ∧
    (0xF < (s.getV x).toNat →
      (∃ t, exec (.skp x) s = .next t ∧ Halts (.keyOutOfRange (s.getV x)) s t) ∧
      (∃ t, exec (.sknp x) s = .next t ∧ Halts (.keyOutOfRange (s.getV x)) s t))

/-! ## Register loads and ALU (43_alu.md) -/

/-- An instruction writes one register, which ends with a property, and advances; nothing else changes. -/
def Sys2Proof.Machine.WritesReg (i : Instr) (x : Ix) (value : Byte → Prop) (s : State) : Prop :=
  ∃ t, exec i s = .next t ∧ value (t.getV x) ∧ EndsAt (s.PC + 2) .none t ∧ Unchanged { regs := [x] } s t

/-- Rules R141 and R142: V[x] <- kk; V[x] <- (V[x] + kk) mod 256 with VF not written (unless x = 0xF). -/
def Obligations.ImmediateLoadAndAdd : Prop :=
  ∀ (x : Ix) (kk : Byte) (s : State),
    decodeWord (encodeXKK 0x6 x kk) = .ok (.ldVxKk x kk) ∧ decodeWord (encodeXKK 0x7 x kk) = .ok (.addVxKk x kk) ∧
    WritesReg (.ldVxKk x kk) x (fun v => v.toNat = kk.toNat) s ∧
    WritesReg (.addVxKk x kk) x (fun v => v.toNat = ((s.getV x).toNat + kk.toNat) % 256) s

/-- Rules R143 to R146: V[x] <- V[y], and bit by bit V[x] OR, AND, XOR V[y]; VF is not reset. -/
def Obligations.CopyAndLogic : Prop :=
  ∀ (x y : Ix) (s : State),
    decodeWord (encodeXYN 0x8 x y 0) = .ok (.ldVxVy x y) ∧ decodeWord (encodeXYN 0x8 x y 1) = .ok (.or x y) ∧
    decodeWord (encodeXYN 0x8 x y 2) = .ok (.and x y) ∧ decodeWord (encodeXYN 0x8 x y 3) = .ok (.xor x y) ∧
    WritesReg (.ldVxVy x y) x (fun v => v.toNat = (s.getV y).toNat) s ∧
    WritesReg (.or x y) x (fun v => ∀ b < 8, v.getLsbD b = true ↔ (s.getV x).getLsbD b = true ∨ (s.getV y).getLsbD b = true) s ∧
    WritesReg (.and x y) x (fun v => ∀ b < 8, v.getLsbD b = true ↔ (s.getV x).getLsbD b = true ∧ (s.getV y).getLsbD b = true) s ∧
    WritesReg (.xor x y) x (fun v => ∀ b < 8, v.getLsbD b = true ↔ (s.getV x).getLsbD b ≠ (s.getV y).getLsbD b) s

/-- A flag instruction on x other than 0xF: V[x] and VF end at two numbers, PC advances, nothing else changes; on x = 0xF it is
rejected with the word and PC + 2 (rule R140). -/
def Sys2Proof.Machine.WritesFlagReg (i : Instr) (w : Word) (x : Ix) (value flag : Nat) (s : State) : Prop :=
  (x ≠ 15 → ∃ t, exec i s = .next t ∧ (t.getV x).toNat = value ∧ (t.getV 15).toNat = flag ∧ EndsAt (s.PC + 2) .none t ∧
    Unchanged { regs := [x, 15] } s t) ∧
  (x = 15 → ∃ t, exec i s = .next t ∧ EndsAt (s.PC + 2) (.invalidOperandIndex w) t ∧ Unchanged {} s t)

/-- Rule R147: V[x] <- (V[x] + V[y]) mod 256 and VF <- 1 if the sum exceeds 255, else 0, from the old values of both operands. -/
def Obligations.AddWithCarry : Prop :=
  ∀ (x y : Ix) (s : State),
    decodeWord (encodeXYN 0x8 x y 4) = .ok (.addVxVy x y) ∧
    WritesFlagReg (.addVxVy x y) (encodeXYN 0x8 x y 4) x (((s.getV x).toNat + (s.getV y).toNat) % 256)
      (if (s.getV x).toNat + (s.getV y).toNat > 255 then 1 else 0) s

/-- Rules R148 and R150: V[x] - V[y] and V[y] - V[x] modulo 256, VF <- 1 when the minuend is strictly greater, else 0, from the
old values of both operands. -/
def Obligations.SubtractWithStrictNotBorrow : Prop :=
  ∀ (x y : Ix) (s : State),
    decodeWord (encodeXYN 0x8 x y 5) = .ok (.sub x y) ∧ decodeWord (encodeXYN 0x8 x y 7) = .ok (.subn x y) ∧
    WritesFlagReg (.sub x y) (encodeXYN 0x8 x y 5) x ((256 + (s.getV x).toNat - (s.getV y).toNat) % 256)
      (if (s.getV x).toNat > (s.getV y).toNat then 1 else 0) s ∧
    WritesFlagReg (.subn x y) (encodeXYN 0x8 x y 7) x ((256 + (s.getV y).toNat - (s.getV x).toNat) % 256)
      (if (s.getV y).toNat > (s.getV x).toNat then 1 else 0) s

/-- Rules R149 and R151: V[x] >> 1 with VF the old bit 0, V[x] << 1 modulo 256 with VF the old bit 7; y has no effect. -/
def Obligations.ShiftsByOne : Prop :=
  ∀ (x y : Ix) (s : State),
    decodeWord (encodeXYN 0x8 x y 6) = .ok (.shr x y) ∧ decodeWord (encodeXYN 0x8 x y 0xE) = .ok (.shl x y) ∧
    WritesFlagReg (.shr x y) (encodeXYN 0x8 x y 6) x ((s.getV x).toNat / 2) ((s.getV x).toNat % 2) s ∧
    WritesFlagReg (.shl x y) (encodeXYN 0x8 x y 0xE) x ((s.getV x).toNat * 2 % 256) ((s.getV x).toNat / 128) s

/-- Rule R23: the opcodes that define a flag outcome write VF with exactly 0 or 1, whenever they execute. -/
def Obligations.FlagIsExactlyZeroOrOne : Prop :=
  ∀ (x y n : Ix) (i : Instr) (s t : State),
    (i = .addVxVy x y ∨ i = .sub x y ∨ i = .shr x y ∨ i = .subn x y ∨ i = .shl x y ∨ i = .drw x y n) →
    exec i s = .next t → t.result = .some ⟨.none, t.drawFlag⟩ → t.getV 15 = 0 ∨ t.getV 15 = 1

/-- Rule R155: the ALU instructions with the same register twice. -/
def Obligations.SameRegisterTwice : Prop :=
  ∀ (x : Ix) (s : State),
    WritesReg (.ldVxVy x x) x (fun v => v = s.getV x) s ∧ WritesReg (.or x x) x (fun v => v = s.getV x) s ∧
    WritesReg (.and x x) x (fun v => v = s.getV x) s ∧ WritesReg (.xor x x) x (fun v => v = 0) s ∧
    WritesFlagReg (.addVxVy x x) (encodeXYN 0x8 x x 4) x (2 * (s.getV x).toNat % 256) ((s.getV x).getLsbD 7).toNat s ∧
    WritesFlagReg (.sub x x) (encodeXYN 0x8 x x 5) x 0 0 s ∧ WritesFlagReg (.subn x x) (encodeXYN 0x8 x x 7) x 0 0 s

/-- Rule R152: V[x] <- rnd AND kk, so no bit is set that kk lacks, kk = 0 gives 0 and kk = 0xFF gives rnd itself. `Config.rnd` of
the draw's number is a free byte (notes/assumptions/2.md): the statement holds whatever it is; the next draw is another. -/
def Obligations.RandomByteMasked : Prop :=
  ∀ (x : Ix) (kk : Byte) (s : State),
    decodeWord (encodeXKK 0xC x kk) = .ok (.rnd x kk) ∧
    ∃ t, exec (.rnd x kk) s = .next t ∧ t.getV x = Config.rnd s.draws &&& kk ∧
      (∀ b, (t.getV x).getLsbD b = true → kk.getLsbD b = true) ∧ (kk = 0xFF → t.getV x = Config.rnd s.draws) ∧
      (kk = 0 → t.getV x = 0) ∧
      t.draws = s.draws + 1 ∧ EndsAt (s.PC + 2) .none t ∧ Unchanged { regs := [x], draws := true } s t

/-! ## Index register and memory transfers (44_index_memory.md) -/

/-- An instruction writes I and advances; nothing else, VF included, changes. -/
def Sys2Proof.Machine.WritesI (i : Instr) (value : Nat) (s : State) : Prop :=
  ∃ t, exec i s = .next t ∧ t.I.toNat = value ∧ EndsAt (s.PC + 2) .none t ∧ Unchanged { I := true } s t

/-- Rules R170, R171, R172 and R174: I <- nnn; I <- (I + V[x]) mod 2^16; I <- V[x] * 5 of the full byte. -/
def Obligations.IndexRegisterWrites : Prop :=
  ∀ (nnn : Addr12) (x : Ix) (s : State),
    decodeWord (encodeAddr 0xA nnn) = .ok (.ldI nnn) ∧ decodeWord (encodeXKK 0xF x 0x1E) = .ok (.addIVx x) ∧
    decodeWord (encodeXKK 0xF x 0x29) = .ok (.ldFVx x) ∧
    WritesI (.ldI nnn) nnn.toNat s ∧ WritesI (.addIVx x) ((s.I.toNat + (s.getV x).toNat) % 65536) s ∧
    WritesI (.ldFVx x) ((s.getV x).toNat * 5) s

/-- A store of n bytes at I: with all of them in 0x200-0xFFF the instruction stores byte k at I + k and every other byte reads as
before; else the lowest offending address is reported, MemoryOutOfRange before ProtectedWrite, and nothing is written. -/
def Sys2Proof.Machine.StoresAtI (i : Instr) (n : Nat) (byte : Nat → Nat) (s : State) : Prop :=
  (0x200 ≤ s.I.toNat → s.I.toNat + n ≤ 0x1000 →
    ∃ t, exec i s = .next t ∧ (∀ k < n, (t.readMem (s.base + k)).toNat = byte k) ∧ EndsAt (s.PC + 2) .none t ∧
      Unchanged { base := s.base, len := n } s t) ∧
  (0x1000 < s.I.toNat + n → ∃ t, exec i s = .next t ∧ Halts (.memoryOutOfRange (max s.I.toNat 0x1000)) s t) ∧
  (s.I.toNat < 0x200 → ∃ t, exec i s = .next t ∧ Halts (.protectedWrite s.I.toNat) s t)

/-- Rule R175: Fx33 stores the hundreds, tens and units of V[x] at I, I+1, I+2, under its checks. The premise is the canonical form
of memory, which every step keeps (`StepKeepsMemory`). -/
def Obligations.StoreDecimalDigits : Prop :=
  ∀ (x : Ix) (s : State), Memory.wf s.mem = true →
    decodeWord (encodeXKK 0xF x 0x33) = .ok (.ldBVx x) ∧
    StoresAtI (.ldBVx x) 3
      (fun k => if k = 0 then (s.getV x).toNat / 100 else if k = 1 then (s.getV x).toNat / 10 % 10 else (s.getV x).toNat % 10) s

/-- Rule R176: Fx55 stores V[0] to V[x] at I to I + x, under its checks; I is unchanged. Premise as for `StoreDecimalDigits`. -/
def Obligations.StoreRegisters : Prop :=
  ∀ (x : Ix) (s : State), Memory.wf s.mem = true →
    decodeWord (encodeXKK 0xF x 0x55) = .ok (.ldMemVx x) ∧
    StoresAtI (.ldMemVx x) (x.val + 1) (fun k => (s.getV (Fin.ofNat 16 k)).toNat) s

/-- Rule R177: Fx65 loads V[0] to V[x] from I to I + x, below 0x200 too; out of range it halts with the lowest offending address
and loads nothing; I is unchanged. -/
def Obligations.LoadRegisters : Prop :=
  ∀ (x : Ix) (s : State),
    decodeWord (encodeXKK 0xF x 0x65) = .ok (.ldVxMem x) ∧
    (s.I.toNat + x.val < 0x1000 →
      ∃ t, exec (.ldVxMem x) s = .next t ∧ (∀ k ≤ x, t.getV k = s.readMem (s.I.toNat + k.val)) ∧
        EndsAt (s.PC + 2) .none t ∧ Unchanged { regs := regsUpTo x } s t ∧ ∀ k, k ∈ regsUpTo x ↔ k ≤ x) ∧
    (0x1000 ≤ s.I.toNat + x.val →
      ∃ t, exec (.ldVxMem x) s = .next t ∧ Halts (.memoryOutOfRange (max s.I.toNat 0x1000)) s t)

/-- Rule R178: Fx55 followed by Fx65 with the same x and I restores V[0..x] exactly, whatever happened to the registers between. -/
def Obligations.StoreThenLoadRestoresRegisters : Prop :=
  ∀ (x : Ix) (s t u : State), Memory.wf s.mem = true → exec (.ldMemVx x) s = .next t →
    t.result = .some ⟨.none, t.drawFlag⟩ → u.mem = t.mem → u.I = t.I → ∃ v, exec (.ldVxMem x) u = .next v ∧ ∀ k ≤ x, v.getV k = s.getV k

/-- Two memories in the canonical form that read the same at every address are the same data: a comparison of states is a
comparison of memories. The list and its canonical form are the model's own choice, no rule of the spec
(notes/assumptions/12.md, DESIGN CHOICE). -/
def Obligations.CanonicalMemoriesAreEqual : Prop :=
  ∀ m m' : Memory, Memory.wf m = true → Memory.wf m' = true → (∀ a, Memory.read m a = Memory.read m' a) → m = m'

/-! ## Keys and timers (45_keys_timers.md) -/

/-- Rules R192, R196 and R197: V[x] <- DT; DT <- V[x]; ST <- V[x]. -/
def Obligations.TimerReadsAndWrites : Prop :=
  ∀ (x : Ix) (s : State),
    decodeWord (encodeXKK 0xF x 0x07) = .ok (.ldVxDt x) ∧ decodeWord (encodeXKK 0xF x 0x15) = .ok (.ldDtVx x) ∧
    decodeWord (encodeXKK 0xF x 0x18) = .ok (.ldStVx x) ∧
    WritesReg (.ldVxDt x) x (fun v => v = s.DT) s ∧
    (∃ t, exec (.ldDtVx x) s = .next t ∧ t.DT = s.getV x ∧ EndsAt (s.PC + 2) .none t ∧ Unchanged { DT := true } s t) ∧
    (∃ t, exec (.ldStVx x) s = .next t ∧ t.ST = s.getV x ∧ EndsAt (s.PC + 2) .none t ∧ Unchanged { ST := true } s t)

/-- Rule R193: Fx0A with a key pressed loads the least pressed key's number; with none it enters WAIT_KEY(x), PC unchanged, and
reports WaitingForKey. -/
def Obligations.KeyLoadOrWait : Prop :=
  ∀ (x : Ix) (s : State),
    decodeWord (encodeXKK 0xF x 0x0A) = .ok (.ldVxK x) ∧
    (∀ k : Ix, s.getKey k ≠ 0 → (∀ j < k, s.getKey j = 0) → WritesReg (.ldVxK x) x (fun v => v.toNat = k.val) s) ∧
    ((∀ k : Ix, s.getKey k = 0) →
      ∃ t, exec (.ldVxK x) s = .next t ∧ t.run = .waitKey x ∧ EndsAt s.PC (.waitingForKey x) t ∧
        Unchanged { run := true } s t)

/-! ## Invariants of every step and every host operation -/

/-- The reset state meets the invariant. Its clause on the canonical form of memory is the model's own choice
(notes/assumptions/12.md). -/
def Obligations.ResetMeetsTheInvariant : Prop := State.reset.Inv

/-- Every step, from any state that meets it, keeps memory canonical, inside its 4096 bytes (20_memory.md rule R50) and as after
reset below 0x200 (rule R54, which the block enforces by the spec's own decision 92_eei_decisions.md D9). The canonical form of
the memory list is the model's own choice, no rule of the spec (notes/assumptions/12.md, DESIGN CHOICE). -/
def Obligations.StepKeepsMemory : Prop :=
  ∀ s t : State, s.MemInv → step s = .next t → t.MemInv

/-- Every step keeps PC at most 0x10FE and every stack entry at most 0x1000 (10_state.md rule R27, 41_control_flow.md rule R122),
together with the place a waiting block waits at, which the bound needs (a waiting step keeps PC: the spec's own decision,
92_eei_decisions.md D14). -/
def Obligations.StepKeepsAddressBounds : Prop :=
  ∀ s t : State, s.AddrInv → step s = .next t → t.AddrInv

/-- Every step keeps this: a block in WAIT_KEY(x) stands at an Fx0A naming x. That Fx0A enters the wait with PC unchanged is
45_keys_timers.md rule R193; that a waiting step leaves PC and the wait alone until a key is pressed is rule R194, the spec's own
decision (92_eei_decisions.md D14). The clause that a step result is present is the model's own (notes/assumptions/3.md). -/
def Obligations.StepKeepsTheWaitAtItsInstruction : Prop :=
  ∀ s t : State, s.WaitInv → step s = .next t → t.WaitInv

/-- Every host operation keeps the invariant (60_exceptions.md rules R221 to R226). Its clauses on the canonical form of memory
and on the step result are the model's own (notes/assumptions/12.md, 3.md). -/
def Obligations.HostOperationsKeepTheInvariant : Prop :=
  ∀ (e : Event) (s t : State), e ≠ .step → s.Inv → runEvent e s = .next t → t.Inv

/-- Rule R54: "no write may occur below 0x200 except by font/initialization": no step and no host operation but reset changes a
byte there, from any state. -/
def Obligations.NoWriteBelowTheProgramBase : Prop :=
  ∀ (e : Event) (s t : State), e ≠ .reset → runEvent e s = .next t → ∀ a < 0x200, t.readMem a = s.readMem a

/-- Rule R212, the spec's own decision (92_eei_decisions.md D11): HALT(c) is left only by reset; and no host operation halts a
block that is live. -/
def Obligations.HaltIsLeftOnlyByReset : Prop :=
  ∀ (e : Event) (s t : State), runEvent e s = .next t →
    (∀ c, s.run = .halt c → e ≠ .reset → t.run = .halt c) ∧ (e = .reset → t.run = .run) ∧ (e ≠ .step → s.live → t.live)

/-- Rule R198: no step changes a timer but one that executes Fx15 (DT) or Fx18 (ST), which set it to V[x]. -/
def Obligations.NoStepDecrementsATimer : Prop :=
  ∀ s t : State, step s = .next t →
    (t.DT = s.DT ∨ ∃ w x, s.run = .run ∧ fetch s = .ok w ∧ decodeWord w = .ok (.ldDtVx x) ∧ t.DT = s.getV x) ∧
    (t.ST = s.ST ∨ ∃ w x, s.run = .run ∧ fetch s = .ok w ∧ decodeWord w = .ok (.ldStVx x) ∧ t.ST = s.getV x)

/-- Rule R31 and R34: a step that changes a pixel or sets drawFlag executes 00E0 or Dxyn, every step that executes one to its end
leaves drawFlag set, and no step clears it. The rule is the spec's own decision (92_eei_decisions.md D17). -/
def Obligations.OnlyDisplayInstructionsDraw : Prop :=
  ∀ s t : State, step s = .next t →
    ((∃ w i, s.run = .run ∧ fetch s = .ok w ∧ decodeWord w = .ok i ∧ (i = .cls ∨ ∃ x y n, i = .drw x y n)) ∧
      (t.result = .some ⟨.none, t.drawFlag⟩ → t.drawFlag = true) ∨
     (t.drawFlag = s.drawFlag ∧ ∀ row col, t.pixel row col = s.pixel row col)) ∧
    (s.drawFlag = true → t.drawFlag = true)

/-- Rule R30: ST is "read by nothing inside the block": two states that differ only in ST step to two states that differ at most
in ST. -/
def Obligations.SoundTimerIsReadByNothing : Prop :=
  ∀ (s t : State) (v : Byte), step s = .next t → ∃ t', step (s.setST v) = .next t' ∧ t'.setST t.ST = t

/-- Rule R29, the spec's own decision (92_eei_decisions.md D29): a stack entry above SP cannot be read by any instruction: changing
it changes nothing but itself in the state
after a step. -/
def Obligations.StaleStackEntriesAreReadByNothing : Prop :=
  ∀ (s t : State) (j : Ix) (a : Word), stackDepth s.SP ≤ j.val → step s = .next t →
    ∃ t', step (s.setStack j a) = .next t' ∧ t'.setStack j (t.getStack j) = t

/-! ## Reset and the host interface (70_reset_and_hazards.md, 60_exceptions.md) -/

/-- Rule R240: what reset leaves, every value the rule gives; the font bytes are the parameter FONT (`font`, rule R36). The
values of SP, run, fb and keys are the spec's own decisions (92_eei_decisions.md D3, D22), the font bytes its D23.
The rule gives the bytes of 0x000 to 0xFFF; that an address of 0x1000 or above, which does not exist, reads as 0 in the memory list
is the model's own choice (notes/assumptions/12.md, DESIGN CHOICE). -/
def Obligations.ResetValues : Prop :=
  let s := State.reset
  (∀ a < 0x50, font[a]? = .some (s.readMem a)) ∧ (∀ a, 0x50 ≤ a → s.readMem a = 0) ∧ font.length = 80 ∧
  (∀ k, s.getV k = 0) ∧ s.I = 0 ∧ s.PC = 0x200 ∧ spNumber s.SP = -1 ∧ (∀ j, s.getStack j = 0) ∧ s.DT = 0 ∧ s.ST = 0 ∧
  s.drawFlag = false ∧ s.run = .run ∧ (∀ row col, s.pixel row col = false) ∧ ∀ k, s.getKey k = 0

/-- Rules R226 and R243: a reset at any time produces the same state as the first, the loaded program zeroed. The model's count of
random draws goes on (notes/assumptions/2.md), since reset does not fix the random source (rule R242). Reset
after the first is the spec's own decision (92_eei_decisions.md D22). -/
def Obligations.ResetAtAnyTimeGivesTheResetState : Prop :=
  ∀ s : State, ∃ t, runEvent .reset s = .next t ∧ { t with draws := State.reset.draws } = State.reset ∧ t.draws = s.draws

/-- Rule R221: tick lowers DT by 1 if DT > 0, ST by 1 if ST > 0, in every run state, and changes nothing else. That a tick is one
atomic operation between steps is the spec's own decision (92_eei_decisions.md D20, notes/assumptions/10.md). -/
def Obligations.TickCountsDownToZero : Prop :=
  ∀ s : State, ∃ t, runEvent .tick s = .next t ∧ t.DT.toNat = s.DT.toNat - 1 ∧ t.ST.toNat = s.ST.toNat - 1 ∧
    t.PC = s.PC ∧ t.result = s.result ∧ Unchanged { DT := true, ST := true } s t

/-- Rules R222 and R223: setKey writes keys[k] and clearDrawFlag writes drawFlag <- 0, in every run state; nothing else changes. -/
def Obligations.KeyWritesAndDrawFlagClear : Prop :=
  ∀ (k : Ix) (v : Byte) (s : State),
    (∃ t, runEvent (.setKey k v) s = .next t ∧ t.getKey k = v ∧ (∀ l, l ≠ k → t.getKey l = s.getKey l) ∧
      { t with keys := s.keys } = s) ∧
    (∃ t, runEvent .clearDrawFlag s = .next t ∧ t.drawFlag = false ∧ { t with drawFlag := s.drawFlag } = s)

/-- Rule R225: after reset and before the first step, load copies at most 3584 bytes verbatim to 0x200 on and touches nothing else
of the block; a longer sequence fails with ProgramTooLarge and writes nothing; at any other time load is refused. That a second
load is refused too is the model's reading of rule R227 (notes/assumptions/4.md). -/
def Obligations.LoadCopiesTheImage : Prop :=
  ∀ (s : State) (bytes : List Byte), Memory.wf s.mem = true →
    (s.result = .none → s.loaded = false → bytes.length ≤ 3584 →
      ∃ t, s.hostLoad bytes = .next (t, .ok) ∧ (∀ (k : Nat) (h : k < bytes.length), t.readMem (0x200 + k) = bytes[k]) ∧
        (∀ a, (a < 0x200 ∨ 0x200 + bytes.length ≤ a) → t.readMem a = s.readMem a) ∧
        { t with mem := s.mem, loaded := s.loaded } = s) ∧
    (s.result = .none → s.loaded = false → 3584 < bytes.length → s.hostLoad bytes = .next (s, .programTooLarge)) ∧
    (s.result ≠ .none ∨ s.loaded = true → s.hostLoad bytes = .refused .lateLoad)

/-- Rule R244: a step without a load executes the zero bytes at 0x200: each of 1792 steps reports UnknownOpcode and moves PC by 2
up to 0x1000, and step 1793 raises MemoryOutOfRange(0x1000) at the fetch and halts. -/
def Obligations.UnloadedBlockWalksToTheEndOfMemory : Prop :=
  (∀ n : Nat, 0 < n → n ≤ 1792 →
    Sys2Proof.core.run n State.reset =
      .next { State.reset with PC := BitVec.ofNat 16 (0x200 + 2 * n), result := .some ⟨.unknownOpcode 0, false⟩ }) ∧
  Sys2Proof.core.run 1793 State.reset =
    .next { State.reset with PC := 0x1000, run := .halt .memoryOutOfRange, result := .some ⟨.fatal (.memoryOutOfRange 0x1000), false⟩ }
end

