-- ==== Sys2Proof/Laws/Memory.lean ====
section
/-! SUPPORT. The laws of memory (20_memory.md rule R61): a read gives the last write to that byte, a write changes only the byte
written (rule R59), and every operation keeps the canonical form and the address space. -/

namespace Sys2Proof.Machine

/-! ## Reads after writes -/

@[simp] theorem Memory.read_nil (a : Nat) : Memory.read [] a = resetByte a := rfl

theorem Memory.wfFrom_cons (lo a : Nat) (v : Byte) (m : Memory) :
    Memory.wfFrom lo ((a, v) :: m) = true ↔ lo ≤ a ∧ v ≠ resetByte a ∧ Memory.wfFrom (a + 1) m = true := by
  simp [Memory.wfFrom]

theorem Memory.wfFrom_mono {lo lo' : Nat} (h : lo' ≤ lo) : ∀ {m : Memory}, Memory.wfFrom lo m = true → Memory.wfFrom lo' m = true
  | [], _ => rfl
  | (a, v) :: m, hm => by
    rw [Memory.wfFrom_cons] at hm ⊢
    exact ⟨le_trans h hm.1, hm.2⟩

/-- Below the first listed address every byte is as after reset. -/
theorem Memory.read_below {a : Nat} : ∀ {lo : Nat} {m : Memory}, Memory.wfFrom lo m = true → a < lo → Memory.read m a = resetByte a
  | _, [], _, _ => rfl
  | lo, (b, v) :: m, h, ha => by
    rw [Memory.wfFrom_cons] at h
    have hb : a ≠ b := by omega
    simp only [Memory.read, if_neg hb]
    exact Memory.read_below h.2.2 (by omega)

theorem Memory.read_put_self {a : Nat} {v : Byte} {m : Memory} (h : Memory.wfFrom (a + 1) m = true) :
    Memory.read (Memory.put a v m) a = v := by
  unfold Memory.put
  split
  · next hv => rw [Memory.read_below h (Nat.lt_succ_self a), hv]
  · simp [Memory.read]

theorem Memory.read_put_other {a b : Nat} {v : Byte} {m : Memory} (hab : b ≠ a) :
    Memory.read (Memory.put a v m) b = Memory.read m b := by
  unfold Memory.put
  split
  · rfl
  · simp [Memory.read, hab]

/-- A write leaves every other byte alone, whatever the list (rule R59). -/
theorem Memory.read_write_other {a b : Nat} (hab : b ≠ a) (v : Byte) :
    ∀ m : Memory, Memory.read (Memory.write m a v) b = Memory.read m b
  | [] => Memory.read_put_other hab
  | (c, u) :: m => by
    simp only [Memory.write]
    split
    · exact Memory.read_put_other hab
    · split
      · next hac =>
        rw [Memory.read_put_other hab]
        simp [Memory.read, show b ≠ c from hac ▸ hab]
      · simp only [Memory.read, Memory.read_write_other hab v m]

/-- A read after a write to the same byte gives the byte written (rule R61), from any start of the canonical form. -/
theorem Memory.read_write_self_from {a : Nat} (v : Byte) :
    ∀ {lo : Nat} {m : Memory}, Memory.wfFrom lo m = true → Memory.read (Memory.write m a v) a = v
  | _, [], _ => Memory.read_put_self rfl
  | lo, (c, u) :: m, h => by
    have hm := h
    rw [Memory.wfFrom_cons] at hm
    simp only [Memory.write]
    split
    · next hac =>
      refine Memory.read_put_self ?_
      rw [Memory.wfFrom_cons]
      exact ⟨hac, hm.2⟩
    · split
      · next hac => exact Memory.read_put_self (hac ▸ hm.2.2)
      · next hac => simp only [Memory.read, if_neg hac, Memory.read_write_self_from v hm.2.2]

/-- Memory laws in one: a read after a write (rules R59, R61). -/
theorem Memory.read_write {m : Memory} (h : Memory.wf m = true) (a b : Nat) (v : Byte) :
    Memory.read (Memory.write m a v) b = if b = a then v else Memory.read m b := by
  split
  · next hb => subst hb; exact Memory.read_write_self_from v h
  · next hb => exact Memory.read_write_other hb v m

/-! ## The canonical form is kept -/

theorem Memory.wfFrom_put {lo a : Nat} {v : Byte} {m : Memory} (hlo : lo ≤ a) (h : Memory.wfFrom (a + 1) m = true) :
    Memory.wfFrom lo (Memory.put a v m) = true := by
  unfold Memory.put
  split
  · exact Memory.wfFrom_mono (by omega) h
  · next hv => rw [Memory.wfFrom_cons]; exact ⟨hlo, hv, h⟩

theorem Memory.wfFrom_write {a : Nat} {v : Byte} :
    ∀ {lo : Nat} {m : Memory}, lo ≤ a → Memory.wfFrom lo m = true → Memory.wfFrom lo (Memory.write m a v) = true
  | lo, [], hlo, _ => Memory.wfFrom_put hlo rfl
  | lo, (c, u) :: m, hlo, h => by
    have hm := h
    rw [Memory.wfFrom_cons] at hm
    simp only [Memory.write]
    split
    · next hac =>
      refine Memory.wfFrom_put hlo ?_
      rw [Memory.wfFrom_cons]
      exact ⟨hac, hm.2⟩
    · split
      · next hac => exact Memory.wfFrom_put hlo (hac ▸ hm.2.2)
      · rw [Memory.wfFrom_cons]
        exact ⟨hm.1, hm.2.1, Memory.wfFrom_write (by omega) hm.2.2⟩

/-- A write keeps the canonical form. -/
theorem Memory.wf_write {m : Memory} (h : Memory.wf m = true) (a : Nat) (v : Byte) : Memory.wf (Memory.write m a v) = true :=
  Memory.wfFrom_write (Nat.zero_le a) h

theorem Memory.wf_writeList : ∀ {m : Memory} {a : Nat} (vs : List Byte), Memory.wf m = true → Memory.wf (Memory.writeList m a vs) = true
  | _, _, [], h => h
  | _, a, v :: vs, h => Memory.wf_writeList vs (Memory.wf_write h a v)

/-! ## The address space is kept -/

theorem Memory.inSpace_put {a : Nat} {v : Byte} {m : Memory} (ha : a < Config.memSize) (h : Memory.inSpace m = true) :
    Memory.inSpace (Memory.put a v m) = true := by
  unfold Memory.put
  split
  · exact h
  · simp only [Memory.inSpace, List.all_cons, Bool.and_eq_true, decide_eq_true_eq] at h ⊢
    exact ⟨ha, h⟩

theorem Memory.inSpace_write {a : Nat} (v : Byte) (ha : a < Config.memSize) :
    ∀ {m : Memory}, Memory.inSpace m = true → Memory.inSpace (Memory.write m a v) = true
  | [], h => Memory.inSpace_put ha h
  | (c, u) :: m, h => by
    have hm := h
    simp only [Memory.inSpace, List.all_cons, Bool.and_eq_true] at hm
    simp only [Memory.write]
    split
    · exact Memory.inSpace_put ha h
    · split
      · exact Memory.inSpace_put ha hm.2
      · simp only [Memory.inSpace, List.all_cons, Bool.and_eq_true]
        exact ⟨hm.1, Memory.inSpace_write v ha hm.2⟩

theorem Memory.inSpace_writeList : ∀ {m : Memory} {a : Nat} (vs : List Byte), a + vs.length ≤ Config.memSize →
    Memory.inSpace m = true → Memory.inSpace (Memory.writeList m a vs) = true
  | _, _, [], _, h => h
  | m, a, v :: vs, ha, h => by
    simp only [List.length_cons] at ha
    exact Memory.inSpace_writeList vs (by omega) (Memory.inSpace_write v (by omega) h)

/-! ## Stores of several bytes -/

/-- Outside the bytes stored every byte is as before (rule R59). -/
theorem Memory.read_writeList_outside {b : Nat} : ∀ {m : Memory} {a : Nat} (vs : List Byte), (b < a ∨ a + vs.length ≤ b) →
    Memory.read (Memory.writeList m a vs) b = Memory.read m b
  | _, _, [], _ => rfl
  | m, a, v :: vs, h => by
    simp only [List.length_cons] at h
    rw [Memory.writeList, Memory.read_writeList_outside vs (by omega), Memory.read_write_other (by omega)]

/-- The k-th byte stored is read back at a + k (rules R59, R61). -/
theorem Memory.read_writeList_at : ∀ {m : Memory} {a : Nat} (vs : List Byte) (k : Nat) (hk : k < vs.length), Memory.wf m = true →
    Memory.read (Memory.writeList m a vs) (a + k) = vs[k]
  | m, a, v :: vs, 0, _, h => by
    rw [Memory.writeList, Nat.add_zero, Memory.read_writeList_outside vs (by omega), Memory.read_write h]
    simp
  | m, a, v :: vs, k + 1, hk, h => by
    rw [Memory.writeList, show a + (k + 1) = a + 1 + k by omega,
      Memory.read_writeList_at vs k (by simpa using hk) (Memory.wf_write h a v)]
    simp

/-- Reset memory is in the canonical form. -/
theorem Memory.wf_reset : Memory.wf State.reset.mem = true := rfl

/-- Reset memory lists no address outside memory. -/
theorem Memory.inSpace_reset : Memory.inSpace State.reset.mem = true := rfl

end Sys2Proof.Machine
end

