-- ==== Sys2Proof/Laws/State.lean ====
section
/-! SUPPORT. One lemma per field per update of the state, true by rfl, and one per reading accessor per update that leaves it
alone, so that no proof unfolds a record update. The file is generated: one block per update. -/

namespace Sys2Proof.Machine

/-! ## setV -/

@[simp] theorem State.setV_V (s : State) (x : Ix) (b : Byte) : (s.setV x b).V = s.V.set x b := rfl
@[simp] theorem State.setV_I (s : State) (x : Ix) (b : Byte) : (s.setV x b).I = s.I := rfl
@[simp] theorem State.setV_PC (s : State) (x : Ix) (b : Byte) : (s.setV x b).PC = s.PC := rfl
@[simp] theorem State.setV_SP (s : State) (x : Ix) (b : Byte) : (s.setV x b).SP = s.SP := rfl
@[simp] theorem State.setV_stack (s : State) (x : Ix) (b : Byte) : (s.setV x b).stack = s.stack := rfl
@[simp] theorem State.setV_DT (s : State) (x : Ix) (b : Byte) : (s.setV x b).DT = s.DT := rfl
@[simp] theorem State.setV_ST (s : State) (x : Ix) (b : Byte) : (s.setV x b).ST = s.ST := rfl
@[simp] theorem State.setV_drawFlag (s : State) (x : Ix) (b : Byte) : (s.setV x b).drawFlag = s.drawFlag := rfl
@[simp] theorem State.setV_run (s : State) (x : Ix) (b : Byte) : (s.setV x b).run = s.run := rfl
@[simp] theorem State.setV_mem (s : State) (x : Ix) (b : Byte) : (s.setV x b).mem = s.mem := rfl
@[simp] theorem State.setV_fb (s : State) (x : Ix) (b : Byte) : (s.setV x b).fb = s.fb := rfl
@[simp] theorem State.setV_keys (s : State) (x : Ix) (b : Byte) : (s.setV x b).keys = s.keys := rfl
@[simp] theorem State.setV_draws (s : State) (x : Ix) (b : Byte) : (s.setV x b).draws = s.draws := rfl
@[simp] theorem State.setV_result (s : State) (x : Ix) (b : Byte) : (s.setV x b).result = s.result := rfl
@[simp] theorem State.setV_loaded (s : State) (x : Ix) (b : Byte) : (s.setV x b).loaded = s.loaded := rfl
@[simp] theorem State.setV_getStack (s : State) (x : Ix) (b : Byte) (i : Ix) : (s.setV x b).getStack i = s.getStack i := rfl
@[simp] theorem State.setV_getKey (s : State) (x : Ix) (b : Byte) (l : Ix) : (s.setV x b).getKey l = s.getKey l := rfl
@[simp] theorem State.setV_readMem (s : State) (x : Ix) (b : Byte) (n : Nat) : (s.setV x b).readMem n = s.readMem n := rfl
@[simp] theorem State.setV_pixel (s : State) (x : Ix) (b : Byte) (row : Fin 32) (col : Fin 64) : (s.setV x b).pixel row col = s.pixel row col := rfl
@[simp] theorem State.setV_base (s : State) (x : Ix) (b : Byte) : (s.setV x b).base = s.base := rfl
@[simp] theorem State.setV_leastPressed (s : State) (x : Ix) (b : Byte) : (s.setV x b).leastPressed = s.leastPressed := rfl

/-! ## setI -/

@[simp] theorem State.setI_V (s : State) (a : Word) : (s.setI a).V = s.V := rfl
@[simp] theorem State.setI_I (s : State) (a : Word) : (s.setI a).I = a := rfl
@[simp] theorem State.setI_PC (s : State) (a : Word) : (s.setI a).PC = s.PC := rfl
@[simp] theorem State.setI_SP (s : State) (a : Word) : (s.setI a).SP = s.SP := rfl
@[simp] theorem State.setI_stack (s : State) (a : Word) : (s.setI a).stack = s.stack := rfl
@[simp] theorem State.setI_DT (s : State) (a : Word) : (s.setI a).DT = s.DT := rfl
@[simp] theorem State.setI_ST (s : State) (a : Word) : (s.setI a).ST = s.ST := rfl
@[simp] theorem State.setI_drawFlag (s : State) (a : Word) : (s.setI a).drawFlag = s.drawFlag := rfl
@[simp] theorem State.setI_run (s : State) (a : Word) : (s.setI a).run = s.run := rfl
@[simp] theorem State.setI_mem (s : State) (a : Word) : (s.setI a).mem = s.mem := rfl
@[simp] theorem State.setI_fb (s : State) (a : Word) : (s.setI a).fb = s.fb := rfl
@[simp] theorem State.setI_keys (s : State) (a : Word) : (s.setI a).keys = s.keys := rfl
@[simp] theorem State.setI_draws (s : State) (a : Word) : (s.setI a).draws = s.draws := rfl
@[simp] theorem State.setI_result (s : State) (a : Word) : (s.setI a).result = s.result := rfl
@[simp] theorem State.setI_loaded (s : State) (a : Word) : (s.setI a).loaded = s.loaded := rfl
@[simp] theorem State.setI_getV (s : State) (a : Word) (y : Ix) : (s.setI a).getV y = s.getV y := rfl
@[simp] theorem State.setI_getStack (s : State) (a : Word) (i : Ix) : (s.setI a).getStack i = s.getStack i := rfl
@[simp] theorem State.setI_getKey (s : State) (a : Word) (l : Ix) : (s.setI a).getKey l = s.getKey l := rfl
@[simp] theorem State.setI_readMem (s : State) (a : Word) (n : Nat) : (s.setI a).readMem n = s.readMem n := rfl
@[simp] theorem State.setI_pixel (s : State) (a : Word) (row : Fin 32) (col : Fin 64) : (s.setI a).pixel row col = s.pixel row col := rfl
@[simp] theorem State.setI_leastPressed (s : State) (a : Word) : (s.setI a).leastPressed = s.leastPressed := rfl

/-! ## setPC -/

@[simp] theorem State.setPC_V (s : State) (a : Word) : (s.setPC a).V = s.V := rfl
@[simp] theorem State.setPC_I (s : State) (a : Word) : (s.setPC a).I = s.I := rfl
@[simp] theorem State.setPC_PC (s : State) (a : Word) : (s.setPC a).PC = a := rfl
@[simp] theorem State.setPC_SP (s : State) (a : Word) : (s.setPC a).SP = s.SP := rfl
@[simp] theorem State.setPC_stack (s : State) (a : Word) : (s.setPC a).stack = s.stack := rfl
@[simp] theorem State.setPC_DT (s : State) (a : Word) : (s.setPC a).DT = s.DT := rfl
@[simp] theorem State.setPC_ST (s : State) (a : Word) : (s.setPC a).ST = s.ST := rfl
@[simp] theorem State.setPC_drawFlag (s : State) (a : Word) : (s.setPC a).drawFlag = s.drawFlag := rfl
@[simp] theorem State.setPC_run (s : State) (a : Word) : (s.setPC a).run = s.run := rfl
@[simp] theorem State.setPC_mem (s : State) (a : Word) : (s.setPC a).mem = s.mem := rfl
@[simp] theorem State.setPC_fb (s : State) (a : Word) : (s.setPC a).fb = s.fb := rfl
@[simp] theorem State.setPC_keys (s : State) (a : Word) : (s.setPC a).keys = s.keys := rfl
@[simp] theorem State.setPC_draws (s : State) (a : Word) : (s.setPC a).draws = s.draws := rfl
@[simp] theorem State.setPC_result (s : State) (a : Word) : (s.setPC a).result = s.result := rfl
@[simp] theorem State.setPC_loaded (s : State) (a : Word) : (s.setPC a).loaded = s.loaded := rfl
@[simp] theorem State.setPC_getV (s : State) (a : Word) (y : Ix) : (s.setPC a).getV y = s.getV y := rfl
@[simp] theorem State.setPC_getStack (s : State) (a : Word) (i : Ix) : (s.setPC a).getStack i = s.getStack i := rfl
@[simp] theorem State.setPC_getKey (s : State) (a : Word) (l : Ix) : (s.setPC a).getKey l = s.getKey l := rfl
@[simp] theorem State.setPC_readMem (s : State) (a : Word) (n : Nat) : (s.setPC a).readMem n = s.readMem n := rfl
@[simp] theorem State.setPC_pixel (s : State) (a : Word) (row : Fin 32) (col : Fin 64) : (s.setPC a).pixel row col = s.pixel row col := rfl
@[simp] theorem State.setPC_base (s : State) (a : Word) : (s.setPC a).base = s.base := rfl
@[simp] theorem State.setPC_leastPressed (s : State) (a : Word) : (s.setPC a).leastPressed = s.leastPressed := rfl

/-! ## setSP -/

@[simp] theorem State.setSP_V (s : State) (p : Option Ix) : (s.setSP p).V = s.V := rfl
@[simp] theorem State.setSP_I (s : State) (p : Option Ix) : (s.setSP p).I = s.I := rfl
@[simp] theorem State.setSP_PC (s : State) (p : Option Ix) : (s.setSP p).PC = s.PC := rfl
@[simp] theorem State.setSP_SP (s : State) (p : Option Ix) : (s.setSP p).SP = p := rfl
@[simp] theorem State.setSP_stack (s : State) (p : Option Ix) : (s.setSP p).stack = s.stack := rfl
@[simp] theorem State.setSP_DT (s : State) (p : Option Ix) : (s.setSP p).DT = s.DT := rfl
@[simp] theorem State.setSP_ST (s : State) (p : Option Ix) : (s.setSP p).ST = s.ST := rfl
@[simp] theorem State.setSP_drawFlag (s : State) (p : Option Ix) : (s.setSP p).drawFlag = s.drawFlag := rfl
@[simp] theorem State.setSP_run (s : State) (p : Option Ix) : (s.setSP p).run = s.run := rfl
@[simp] theorem State.setSP_mem (s : State) (p : Option Ix) : (s.setSP p).mem = s.mem := rfl
@[simp] theorem State.setSP_fb (s : State) (p : Option Ix) : (s.setSP p).fb = s.fb := rfl
@[simp] theorem State.setSP_keys (s : State) (p : Option Ix) : (s.setSP p).keys = s.keys := rfl
@[simp] theorem State.setSP_draws (s : State) (p : Option Ix) : (s.setSP p).draws = s.draws := rfl
@[simp] theorem State.setSP_result (s : State) (p : Option Ix) : (s.setSP p).result = s.result := rfl
@[simp] theorem State.setSP_loaded (s : State) (p : Option Ix) : (s.setSP p).loaded = s.loaded := rfl
@[simp] theorem State.setSP_getV (s : State) (p : Option Ix) (y : Ix) : (s.setSP p).getV y = s.getV y := rfl
@[simp] theorem State.setSP_getStack (s : State) (p : Option Ix) (i : Ix) : (s.setSP p).getStack i = s.getStack i := rfl
@[simp] theorem State.setSP_getKey (s : State) (p : Option Ix) (l : Ix) : (s.setSP p).getKey l = s.getKey l := rfl
@[simp] theorem State.setSP_readMem (s : State) (p : Option Ix) (n : Nat) : (s.setSP p).readMem n = s.readMem n := rfl
@[simp] theorem State.setSP_pixel (s : State) (p : Option Ix) (row : Fin 32) (col : Fin 64) : (s.setSP p).pixel row col = s.pixel row col := rfl
@[simp] theorem State.setSP_base (s : State) (p : Option Ix) : (s.setSP p).base = s.base := rfl
@[simp] theorem State.setSP_leastPressed (s : State) (p : Option Ix) : (s.setSP p).leastPressed = s.leastPressed := rfl

/-! ## setStack -/

@[simp] theorem State.setStack_V (s : State) (j : Ix) (a : Word) : (s.setStack j a).V = s.V := rfl
@[simp] theorem State.setStack_I (s : State) (j : Ix) (a : Word) : (s.setStack j a).I = s.I := rfl
@[simp] theorem State.setStack_PC (s : State) (j : Ix) (a : Word) : (s.setStack j a).PC = s.PC := rfl
@[simp] theorem State.setStack_SP (s : State) (j : Ix) (a : Word) : (s.setStack j a).SP = s.SP := rfl
@[simp] theorem State.setStack_stack (s : State) (j : Ix) (a : Word) : (s.setStack j a).stack = s.stack.set j a := rfl
@[simp] theorem State.setStack_DT (s : State) (j : Ix) (a : Word) : (s.setStack j a).DT = s.DT := rfl
@[simp] theorem State.setStack_ST (s : State) (j : Ix) (a : Word) : (s.setStack j a).ST = s.ST := rfl
@[simp] theorem State.setStack_drawFlag (s : State) (j : Ix) (a : Word) : (s.setStack j a).drawFlag = s.drawFlag := rfl
@[simp] theorem State.setStack_run (s : State) (j : Ix) (a : Word) : (s.setStack j a).run = s.run := rfl
@[simp] theorem State.setStack_mem (s : State) (j : Ix) (a : Word) : (s.setStack j a).mem = s.mem := rfl
@[simp] theorem State.setStack_fb (s : State) (j : Ix) (a : Word) : (s.setStack j a).fb = s.fb := rfl
@[simp] theorem State.setStack_keys (s : State) (j : Ix) (a : Word) : (s.setStack j a).keys = s.keys := rfl
@[simp] theorem State.setStack_draws (s : State) (j : Ix) (a : Word) : (s.setStack j a).draws = s.draws := rfl
@[simp] theorem State.setStack_result (s : State) (j : Ix) (a : Word) : (s.setStack j a).result = s.result := rfl
@[simp] theorem State.setStack_loaded (s : State) (j : Ix) (a : Word) : (s.setStack j a).loaded = s.loaded := rfl
@[simp] theorem State.setStack_getV (s : State) (j : Ix) (a : Word) (y : Ix) : (s.setStack j a).getV y = s.getV y := rfl
@[simp] theorem State.setStack_getKey (s : State) (j : Ix) (a : Word) (l : Ix) : (s.setStack j a).getKey l = s.getKey l := rfl
@[simp] theorem State.setStack_readMem (s : State) (j : Ix) (a : Word) (n : Nat) : (s.setStack j a).readMem n = s.readMem n := rfl
@[simp] theorem State.setStack_pixel (s : State) (j : Ix) (a : Word) (row : Fin 32) (col : Fin 64) : (s.setStack j a).pixel row col = s.pixel row col := rfl
@[simp] theorem State.setStack_base (s : State) (j : Ix) (a : Word) : (s.setStack j a).base = s.base := rfl
@[simp] theorem State.setStack_leastPressed (s : State) (j : Ix) (a : Word) : (s.setStack j a).leastPressed = s.leastPressed := rfl

/-! ## setDT -/

@[simp] theorem State.setDT_V (s : State) (b : Byte) : (s.setDT b).V = s.V := rfl
@[simp] theorem State.setDT_I (s : State) (b : Byte) : (s.setDT b).I = s.I := rfl
@[simp] theorem State.setDT_PC (s : State) (b : Byte) : (s.setDT b).PC = s.PC := rfl
@[simp] theorem State.setDT_SP (s : State) (b : Byte) : (s.setDT b).SP = s.SP := rfl
@[simp] theorem State.setDT_stack (s : State) (b : Byte) : (s.setDT b).stack = s.stack := rfl
@[simp] theorem State.setDT_DT (s : State) (b : Byte) : (s.setDT b).DT = b := rfl
@[simp] theorem State.setDT_ST (s : State) (b : Byte) : (s.setDT b).ST = s.ST := rfl
@[simp] theorem State.setDT_drawFlag (s : State) (b : Byte) : (s.setDT b).drawFlag = s.drawFlag := rfl
@[simp] theorem State.setDT_run (s : State) (b : Byte) : (s.setDT b).run = s.run := rfl
@[simp] theorem State.setDT_mem (s : State) (b : Byte) : (s.setDT b).mem = s.mem := rfl
@[simp] theorem State.setDT_fb (s : State) (b : Byte) : (s.setDT b).fb = s.fb := rfl
@[simp] theorem State.setDT_keys (s : State) (b : Byte) : (s.setDT b).keys = s.keys := rfl
@[simp] theorem State.setDT_draws (s : State) (b : Byte) : (s.setDT b).draws = s.draws := rfl
@[simp] theorem State.setDT_result (s : State) (b : Byte) : (s.setDT b).result = s.result := rfl
@[simp] theorem State.setDT_loaded (s : State) (b : Byte) : (s.setDT b).loaded = s.loaded := rfl
@[simp] theorem State.setDT_getV (s : State) (b : Byte) (y : Ix) : (s.setDT b).getV y = s.getV y := rfl
@[simp] theorem State.setDT_getStack (s : State) (b : Byte) (i : Ix) : (s.setDT b).getStack i = s.getStack i := rfl
@[simp] theorem State.setDT_getKey (s : State) (b : Byte) (l : Ix) : (s.setDT b).getKey l = s.getKey l := rfl
@[simp] theorem State.setDT_readMem (s : State) (b : Byte) (n : Nat) : (s.setDT b).readMem n = s.readMem n := rfl
@[simp] theorem State.setDT_pixel (s : State) (b : Byte) (row : Fin 32) (col : Fin 64) : (s.setDT b).pixel row col = s.pixel row col := rfl
@[simp] theorem State.setDT_base (s : State) (b : Byte) : (s.setDT b).base = s.base := rfl
@[simp] theorem State.setDT_leastPressed (s : State) (b : Byte) : (s.setDT b).leastPressed = s.leastPressed := rfl

/-! ## setST -/

@[simp] theorem State.setST_V (s : State) (b : Byte) : (s.setST b).V = s.V := rfl
@[simp] theorem State.setST_I (s : State) (b : Byte) : (s.setST b).I = s.I := rfl
@[simp] theorem State.setST_PC (s : State) (b : Byte) : (s.setST b).PC = s.PC := rfl
@[simp] theorem State.setST_SP (s : State) (b : Byte) : (s.setST b).SP = s.SP := rfl
@[simp] theorem State.setST_stack (s : State) (b : Byte) : (s.setST b).stack = s.stack := rfl
@[simp] theorem State.setST_DT (s : State) (b : Byte) : (s.setST b).DT = s.DT := rfl
@[simp] theorem State.setST_ST (s : State) (b : Byte) : (s.setST b).ST = b := rfl
@[simp] theorem State.setST_drawFlag (s : State) (b : Byte) : (s.setST b).drawFlag = s.drawFlag := rfl
@[simp] theorem State.setST_run (s : State) (b : Byte) : (s.setST b).run = s.run := rfl
@[simp] theorem State.setST_mem (s : State) (b : Byte) : (s.setST b).mem = s.mem := rfl
@[simp] theorem State.setST_fb (s : State) (b : Byte) : (s.setST b).fb = s.fb := rfl
@[simp] theorem State.setST_keys (s : State) (b : Byte) : (s.setST b).keys = s.keys := rfl
@[simp] theorem State.setST_draws (s : State) (b : Byte) : (s.setST b).draws = s.draws := rfl
@[simp] theorem State.setST_result (s : State) (b : Byte) : (s.setST b).result = s.result := rfl
@[simp] theorem State.setST_loaded (s : State) (b : Byte) : (s.setST b).loaded = s.loaded := rfl
@[simp] theorem State.setST_getV (s : State) (b : Byte) (y : Ix) : (s.setST b).getV y = s.getV y := rfl
@[simp] theorem State.setST_getStack (s : State) (b : Byte) (i : Ix) : (s.setST b).getStack i = s.getStack i := rfl
@[simp] theorem State.setST_getKey (s : State) (b : Byte) (l : Ix) : (s.setST b).getKey l = s.getKey l := rfl
@[simp] theorem State.setST_readMem (s : State) (b : Byte) (n : Nat) : (s.setST b).readMem n = s.readMem n := rfl
@[simp] theorem State.setST_pixel (s : State) (b : Byte) (row : Fin 32) (col : Fin 64) : (s.setST b).pixel row col = s.pixel row col := rfl
@[simp] theorem State.setST_base (s : State) (b : Byte) : (s.setST b).base = s.base := rfl
@[simp] theorem State.setST_leastPressed (s : State) (b : Byte) : (s.setST b).leastPressed = s.leastPressed := rfl

/-! ## setDrawFlag -/

@[simp] theorem State.setDrawFlag_V (s : State) (f : Bool) : (s.setDrawFlag f).V = s.V := rfl
@[simp] theorem State.setDrawFlag_I (s : State) (f : Bool) : (s.setDrawFlag f).I = s.I := rfl
@[simp] theorem State.setDrawFlag_PC (s : State) (f : Bool) : (s.setDrawFlag f).PC = s.PC := rfl
@[simp] theorem State.setDrawFlag_SP (s : State) (f : Bool) : (s.setDrawFlag f).SP = s.SP := rfl
@[simp] theorem State.setDrawFlag_stack (s : State) (f : Bool) : (s.setDrawFlag f).stack = s.stack := rfl
@[simp] theorem State.setDrawFlag_DT (s : State) (f : Bool) : (s.setDrawFlag f).DT = s.DT := rfl
@[simp] theorem State.setDrawFlag_ST (s : State) (f : Bool) : (s.setDrawFlag f).ST = s.ST := rfl
@[simp] theorem State.setDrawFlag_drawFlag (s : State) (f : Bool) : (s.setDrawFlag f).drawFlag = f := rfl
@[simp] theorem State.setDrawFlag_run (s : State) (f : Bool) : (s.setDrawFlag f).run = s.run := rfl
@[simp] theorem State.setDrawFlag_mem (s : State) (f : Bool) : (s.setDrawFlag f).mem = s.mem := rfl
@[simp] theorem State.setDrawFlag_fb (s : State) (f : Bool) : (s.setDrawFlag f).fb = s.fb := rfl
@[simp] theorem State.setDrawFlag_keys (s : State) (f : Bool) : (s.setDrawFlag f).keys = s.keys := rfl
@[simp] theorem State.setDrawFlag_draws (s : State) (f : Bool) : (s.setDrawFlag f).draws = s.draws := rfl
@[simp] theorem State.setDrawFlag_result (s : State) (f : Bool) : (s.setDrawFlag f).result = s.result := rfl
@[simp] theorem State.setDrawFlag_loaded (s : State) (f : Bool) : (s.setDrawFlag f).loaded = s.loaded := rfl
@[simp] theorem State.setDrawFlag_getV (s : State) (f : Bool) (y : Ix) : (s.setDrawFlag f).getV y = s.getV y := rfl
@[simp] theorem State.setDrawFlag_getStack (s : State) (f : Bool) (i : Ix) : (s.setDrawFlag f).getStack i = s.getStack i := rfl
@[simp] theorem State.setDrawFlag_getKey (s : State) (f : Bool) (l : Ix) : (s.setDrawFlag f).getKey l = s.getKey l := rfl
@[simp] theorem State.setDrawFlag_readMem (s : State) (f : Bool) (n : Nat) : (s.setDrawFlag f).readMem n = s.readMem n := rfl
@[simp] theorem State.setDrawFlag_pixel (s : State) (f : Bool) (row : Fin 32) (col : Fin 64) : (s.setDrawFlag f).pixel row col = s.pixel row col := rfl
@[simp] theorem State.setDrawFlag_base (s : State) (f : Bool) : (s.setDrawFlag f).base = s.base := rfl
@[simp] theorem State.setDrawFlag_leastPressed (s : State) (f : Bool) : (s.setDrawFlag f).leastPressed = s.leastPressed := rfl

/-! ## setRun -/

@[simp] theorem State.setRun_V (s : State) (r : RunState) : (s.setRun r).V = s.V := rfl
@[simp] theorem State.setRun_I (s : State) (r : RunState) : (s.setRun r).I = s.I := rfl
@[simp] theorem State.setRun_PC (s : State) (r : RunState) : (s.setRun r).PC = s.PC := rfl
@[simp] theorem State.setRun_SP (s : State) (r : RunState) : (s.setRun r).SP = s.SP := rfl
@[simp] theorem State.setRun_stack (s : State) (r : RunState) : (s.setRun r).stack = s.stack := rfl
@[simp] theorem State.setRun_DT (s : State) (r : RunState) : (s.setRun r).DT = s.DT := rfl
@[simp] theorem State.setRun_ST (s : State) (r : RunState) : (s.setRun r).ST = s.ST := rfl
@[simp] theorem State.setRun_drawFlag (s : State) (r : RunState) : (s.setRun r).drawFlag = s.drawFlag := rfl
@[simp] theorem State.setRun_run (s : State) (r : RunState) : (s.setRun r).run = r := rfl
@[simp] theorem State.setRun_mem (s : State) (r : RunState) : (s.setRun r).mem = s.mem := rfl
@[simp] theorem State.setRun_fb (s : State) (r : RunState) : (s.setRun r).fb = s.fb := rfl
@[simp] theorem State.setRun_keys (s : State) (r : RunState) : (s.setRun r).keys = s.keys := rfl
@[simp] theorem State.setRun_draws (s : State) (r : RunState) : (s.setRun r).draws = s.draws := rfl
@[simp] theorem State.setRun_result (s : State) (r : RunState) : (s.setRun r).result = s.result := rfl
@[simp] theorem State.setRun_loaded (s : State) (r : RunState) : (s.setRun r).loaded = s.loaded := rfl
@[simp] theorem State.setRun_getV (s : State) (r : RunState) (y : Ix) : (s.setRun r).getV y = s.getV y := rfl
@[simp] theorem State.setRun_getStack (s : State) (r : RunState) (i : Ix) : (s.setRun r).getStack i = s.getStack i := rfl
@[simp] theorem State.setRun_getKey (s : State) (r : RunState) (l : Ix) : (s.setRun r).getKey l = s.getKey l := rfl
@[simp] theorem State.setRun_readMem (s : State) (r : RunState) (n : Nat) : (s.setRun r).readMem n = s.readMem n := rfl
@[simp] theorem State.setRun_pixel (s : State) (r : RunState) (row : Fin 32) (col : Fin 64) : (s.setRun r).pixel row col = s.pixel row col := rfl
@[simp] theorem State.setRun_base (s : State) (r : RunState) : (s.setRun r).base = s.base := rfl
@[simp] theorem State.setRun_leastPressed (s : State) (r : RunState) : (s.setRun r).leastPressed = s.leastPressed := rfl

/-! ## setMem -/

@[simp] theorem State.setMem_V (s : State) (m : Memory) : (s.setMem m).V = s.V := rfl
@[simp] theorem State.setMem_I (s : State) (m : Memory) : (s.setMem m).I = s.I := rfl
@[simp] theorem State.setMem_PC (s : State) (m : Memory) : (s.setMem m).PC = s.PC := rfl
@[simp] theorem State.setMem_SP (s : State) (m : Memory) : (s.setMem m).SP = s.SP := rfl
@[simp] theorem State.setMem_stack (s : State) (m : Memory) : (s.setMem m).stack = s.stack := rfl
@[simp] theorem State.setMem_DT (s : State) (m : Memory) : (s.setMem m).DT = s.DT := rfl
@[simp] theorem State.setMem_ST (s : State) (m : Memory) : (s.setMem m).ST = s.ST := rfl
@[simp] theorem State.setMem_drawFlag (s : State) (m : Memory) : (s.setMem m).drawFlag = s.drawFlag := rfl
@[simp] theorem State.setMem_run (s : State) (m : Memory) : (s.setMem m).run = s.run := rfl
@[simp] theorem State.setMem_mem (s : State) (m : Memory) : (s.setMem m).mem = m := rfl
@[simp] theorem State.setMem_fb (s : State) (m : Memory) : (s.setMem m).fb = s.fb := rfl
@[simp] theorem State.setMem_keys (s : State) (m : Memory) : (s.setMem m).keys = s.keys := rfl
@[simp] theorem State.setMem_draws (s : State) (m : Memory) : (s.setMem m).draws = s.draws := rfl
@[simp] theorem State.setMem_result (s : State) (m : Memory) : (s.setMem m).result = s.result := rfl
@[simp] theorem State.setMem_loaded (s : State) (m : Memory) : (s.setMem m).loaded = s.loaded := rfl
@[simp] theorem State.setMem_getV (s : State) (m : Memory) (y : Ix) : (s.setMem m).getV y = s.getV y := rfl
@[simp] theorem State.setMem_getStack (s : State) (m : Memory) (i : Ix) : (s.setMem m).getStack i = s.getStack i := rfl
@[simp] theorem State.setMem_getKey (s : State) (m : Memory) (l : Ix) : (s.setMem m).getKey l = s.getKey l := rfl
@[simp] theorem State.setMem_pixel (s : State) (m : Memory) (row : Fin 32) (col : Fin 64) : (s.setMem m).pixel row col = s.pixel row col := rfl
@[simp] theorem State.setMem_base (s : State) (m : Memory) : (s.setMem m).base = s.base := rfl
@[simp] theorem State.setMem_leastPressed (s : State) (m : Memory) : (s.setMem m).leastPressed = s.leastPressed := rfl

/-! ## setFb -/

@[simp] theorem State.setFb_V (s : State) (fb : Framebuffer) : (s.setFb fb).V = s.V := rfl
@[simp] theorem State.setFb_I (s : State) (fb : Framebuffer) : (s.setFb fb).I = s.I := rfl
@[simp] theorem State.setFb_PC (s : State) (fb : Framebuffer) : (s.setFb fb).PC = s.PC := rfl
@[simp] theorem State.setFb_SP (s : State) (fb : Framebuffer) : (s.setFb fb).SP = s.SP := rfl
@[simp] theorem State.setFb_stack (s : State) (fb : Framebuffer) : (s.setFb fb).stack = s.stack := rfl
@[simp] theorem State.setFb_DT (s : State) (fb : Framebuffer) : (s.setFb fb).DT = s.DT := rfl
@[simp] theorem State.setFb_ST (s : State) (fb : Framebuffer) : (s.setFb fb).ST = s.ST := rfl
@[simp] theorem State.setFb_drawFlag (s : State) (fb : Framebuffer) : (s.setFb fb).drawFlag = s.drawFlag := rfl
@[simp] theorem State.setFb_run (s : State) (fb : Framebuffer) : (s.setFb fb).run = s.run := rfl
@[simp] theorem State.setFb_mem (s : State) (fb : Framebuffer) : (s.setFb fb).mem = s.mem := rfl
@[simp] theorem State.setFb_fb (s : State) (fb : Framebuffer) : (s.setFb fb).fb = fb := rfl
@[simp] theorem State.setFb_keys (s : State) (fb : Framebuffer) : (s.setFb fb).keys = s.keys := rfl
@[simp] theorem State.setFb_draws (s : State) (fb : Framebuffer) : (s.setFb fb).draws = s.draws := rfl
@[simp] theorem State.setFb_result (s : State) (fb : Framebuffer) : (s.setFb fb).result = s.result := rfl
@[simp] theorem State.setFb_loaded (s : State) (fb : Framebuffer) : (s.setFb fb).loaded = s.loaded := rfl
@[simp] theorem State.setFb_getV (s : State) (fb : Framebuffer) (y : Ix) : (s.setFb fb).getV y = s.getV y := rfl
@[simp] theorem State.setFb_getStack (s : State) (fb : Framebuffer) (i : Ix) : (s.setFb fb).getStack i = s.getStack i := rfl
@[simp] theorem State.setFb_getKey (s : State) (fb : Framebuffer) (l : Ix) : (s.setFb fb).getKey l = s.getKey l := rfl
@[simp] theorem State.setFb_readMem (s : State) (fb : Framebuffer) (n : Nat) : (s.setFb fb).readMem n = s.readMem n := rfl
@[simp] theorem State.setFb_base (s : State) (fb : Framebuffer) : (s.setFb fb).base = s.base := rfl
@[simp] theorem State.setFb_leastPressed (s : State) (fb : Framebuffer) : (s.setFb fb).leastPressed = s.leastPressed := rfl

/-! ## setKey -/

@[simp] theorem State.setKey_V (s : State) (k : Ix) (b : Byte) : (s.setKey k b).V = s.V := rfl
@[simp] theorem State.setKey_I (s : State) (k : Ix) (b : Byte) : (s.setKey k b).I = s.I := rfl
@[simp] theorem State.setKey_PC (s : State) (k : Ix) (b : Byte) : (s.setKey k b).PC = s.PC := rfl
@[simp] theorem State.setKey_SP (s : State) (k : Ix) (b : Byte) : (s.setKey k b).SP = s.SP := rfl
@[simp] theorem State.setKey_stack (s : State) (k : Ix) (b : Byte) : (s.setKey k b).stack = s.stack := rfl
@[simp] theorem State.setKey_DT (s : State) (k : Ix) (b : Byte) : (s.setKey k b).DT = s.DT := rfl
@[simp] theorem State.setKey_ST (s : State) (k : Ix) (b : Byte) : (s.setKey k b).ST = s.ST := rfl
@[simp] theorem State.setKey_drawFlag (s : State) (k : Ix) (b : Byte) : (s.setKey k b).drawFlag = s.drawFlag := rfl
@[simp] theorem State.setKey_run (s : State) (k : Ix) (b : Byte) : (s.setKey k b).run = s.run := rfl
@[simp] theorem State.setKey_mem (s : State) (k : Ix) (b : Byte) : (s.setKey k b).mem = s.mem := rfl
@[simp] theorem State.setKey_fb (s : State) (k : Ix) (b : Byte) : (s.setKey k b).fb = s.fb := rfl
@[simp] theorem State.setKey_keys (s : State) (k : Ix) (b : Byte) : (s.setKey k b).keys = s.keys.set k b := rfl
@[simp] theorem State.setKey_draws (s : State) (k : Ix) (b : Byte) : (s.setKey k b).draws = s.draws := rfl
@[simp] theorem State.setKey_result (s : State) (k : Ix) (b : Byte) : (s.setKey k b).result = s.result := rfl
@[simp] theorem State.setKey_loaded (s : State) (k : Ix) (b : Byte) : (s.setKey k b).loaded = s.loaded := rfl
@[simp] theorem State.setKey_getV (s : State) (k : Ix) (b : Byte) (y : Ix) : (s.setKey k b).getV y = s.getV y := rfl
@[simp] theorem State.setKey_getStack (s : State) (k : Ix) (b : Byte) (i : Ix) : (s.setKey k b).getStack i = s.getStack i := rfl
@[simp] theorem State.setKey_readMem (s : State) (k : Ix) (b : Byte) (n : Nat) : (s.setKey k b).readMem n = s.readMem n := rfl
@[simp] theorem State.setKey_pixel (s : State) (k : Ix) (b : Byte) (row : Fin 32) (col : Fin 64) : (s.setKey k b).pixel row col = s.pixel row col := rfl
@[simp] theorem State.setKey_base (s : State) (k : Ix) (b : Byte) : (s.setKey k b).base = s.base := rfl

/-! ## drawRnd -/

@[simp] theorem State.drawRnd_V (s : State) : (s.drawRnd).V = s.V := rfl
@[simp] theorem State.drawRnd_I (s : State) : (s.drawRnd).I = s.I := rfl
@[simp] theorem State.drawRnd_PC (s : State) : (s.drawRnd).PC = s.PC := rfl
@[simp] theorem State.drawRnd_SP (s : State) : (s.drawRnd).SP = s.SP := rfl
@[simp] theorem State.drawRnd_stack (s : State) : (s.drawRnd).stack = s.stack := rfl
@[simp] theorem State.drawRnd_DT (s : State) : (s.drawRnd).DT = s.DT := rfl
@[simp] theorem State.drawRnd_ST (s : State) : (s.drawRnd).ST = s.ST := rfl
@[simp] theorem State.drawRnd_drawFlag (s : State) : (s.drawRnd).drawFlag = s.drawFlag := rfl
@[simp] theorem State.drawRnd_run (s : State) : (s.drawRnd).run = s.run := rfl
@[simp] theorem State.drawRnd_mem (s : State) : (s.drawRnd).mem = s.mem := rfl
@[simp] theorem State.drawRnd_fb (s : State) : (s.drawRnd).fb = s.fb := rfl
@[simp] theorem State.drawRnd_keys (s : State) : (s.drawRnd).keys = s.keys := rfl
@[simp] theorem State.drawRnd_draws (s : State) : (s.drawRnd).draws = s.draws + 1 := rfl
@[simp] theorem State.drawRnd_result (s : State) : (s.drawRnd).result = s.result := rfl
@[simp] theorem State.drawRnd_loaded (s : State) : (s.drawRnd).loaded = s.loaded := rfl
@[simp] theorem State.drawRnd_getV (s : State) (y : Ix) : (s.drawRnd).getV y = s.getV y := rfl
@[simp] theorem State.drawRnd_getStack (s : State) (i : Ix) : (s.drawRnd).getStack i = s.getStack i := rfl
@[simp] theorem State.drawRnd_getKey (s : State) (l : Ix) : (s.drawRnd).getKey l = s.getKey l := rfl
@[simp] theorem State.drawRnd_readMem (s : State) (n : Nat) : (s.drawRnd).readMem n = s.readMem n := rfl
@[simp] theorem State.drawRnd_pixel (s : State) (row : Fin 32) (col : Fin 64) : (s.drawRnd).pixel row col = s.pixel row col := rfl
@[simp] theorem State.drawRnd_base (s : State) : (s.drawRnd).base = s.base := rfl
@[simp] theorem State.drawRnd_leastPressed (s : State) : (s.drawRnd).leastPressed = s.leastPressed := rfl

/-! ## report -/

@[simp] theorem State.report_V (s : State) (c : Condition) : (s.report c).V = s.V := rfl
@[simp] theorem State.report_I (s : State) (c : Condition) : (s.report c).I = s.I := rfl
@[simp] theorem State.report_PC (s : State) (c : Condition) : (s.report c).PC = s.PC := rfl
@[simp] theorem State.report_SP (s : State) (c : Condition) : (s.report c).SP = s.SP := rfl
@[simp] theorem State.report_stack (s : State) (c : Condition) : (s.report c).stack = s.stack := rfl
@[simp] theorem State.report_DT (s : State) (c : Condition) : (s.report c).DT = s.DT := rfl
@[simp] theorem State.report_ST (s : State) (c : Condition) : (s.report c).ST = s.ST := rfl
@[simp] theorem State.report_drawFlag (s : State) (c : Condition) : (s.report c).drawFlag = s.drawFlag := rfl
@[simp] theorem State.report_run (s : State) (c : Condition) : (s.report c).run = s.run := rfl
@[simp] theorem State.report_mem (s : State) (c : Condition) : (s.report c).mem = s.mem := rfl
@[simp] theorem State.report_fb (s : State) (c : Condition) : (s.report c).fb = s.fb := rfl
@[simp] theorem State.report_keys (s : State) (c : Condition) : (s.report c).keys = s.keys := rfl
@[simp] theorem State.report_draws (s : State) (c : Condition) : (s.report c).draws = s.draws := rfl
@[simp] theorem State.report_result (s : State) (c : Condition) : (s.report c).result = .some ⟨c, s.drawFlag⟩ := rfl
@[simp] theorem State.report_loaded (s : State) (c : Condition) : (s.report c).loaded = s.loaded := rfl
@[simp] theorem State.report_getV (s : State) (c : Condition) (y : Ix) : (s.report c).getV y = s.getV y := rfl
@[simp] theorem State.report_getStack (s : State) (c : Condition) (i : Ix) : (s.report c).getStack i = s.getStack i := rfl
@[simp] theorem State.report_getKey (s : State) (c : Condition) (l : Ix) : (s.report c).getKey l = s.getKey l := rfl
@[simp] theorem State.report_readMem (s : State) (c : Condition) (n : Nat) : (s.report c).readMem n = s.readMem n := rfl
@[simp] theorem State.report_pixel (s : State) (c : Condition) (row : Fin 32) (col : Fin 64) : (s.report c).pixel row col = s.pixel row col := rfl
@[simp] theorem State.report_base (s : State) (c : Condition) : (s.report c).base = s.base := rfl
@[simp] theorem State.report_leastPressed (s : State) (c : Condition) : (s.report c).leastPressed = s.leastPressed := rfl

/-! ## advance -/

@[simp] theorem State.advance_V (s : State) : (s.advance).V = s.V := rfl
@[simp] theorem State.advance_I (s : State) : (s.advance).I = s.I := rfl
@[simp] theorem State.advance_PC (s : State) : (s.advance).PC = s.PC + 2 := rfl
@[simp] theorem State.advance_SP (s : State) : (s.advance).SP = s.SP := rfl
@[simp] theorem State.advance_stack (s : State) : (s.advance).stack = s.stack := rfl
@[simp] theorem State.advance_DT (s : State) : (s.advance).DT = s.DT := rfl
@[simp] theorem State.advance_ST (s : State) : (s.advance).ST = s.ST := rfl
@[simp] theorem State.advance_drawFlag (s : State) : (s.advance).drawFlag = s.drawFlag := rfl
@[simp] theorem State.advance_run (s : State) : (s.advance).run = s.run := rfl
@[simp] theorem State.advance_mem (s : State) : (s.advance).mem = s.mem := rfl
@[simp] theorem State.advance_fb (s : State) : (s.advance).fb = s.fb := rfl
@[simp] theorem State.advance_keys (s : State) : (s.advance).keys = s.keys := rfl
@[simp] theorem State.advance_draws (s : State) : (s.advance).draws = s.draws := rfl
@[simp] theorem State.advance_result (s : State) : (s.advance).result = s.result := rfl
@[simp] theorem State.advance_loaded (s : State) : (s.advance).loaded = s.loaded := rfl
@[simp] theorem State.advance_getV (s : State) (y : Ix) : (s.advance).getV y = s.getV y := rfl
@[simp] theorem State.advance_getStack (s : State) (i : Ix) : (s.advance).getStack i = s.getStack i := rfl
@[simp] theorem State.advance_getKey (s : State) (l : Ix) : (s.advance).getKey l = s.getKey l := rfl
@[simp] theorem State.advance_readMem (s : State) (n : Nat) : (s.advance).readMem n = s.readMem n := rfl
@[simp] theorem State.advance_pixel (s : State) (row : Fin 32) (col : Fin 64) : (s.advance).pixel row col = s.pixel row col := rfl
@[simp] theorem State.advance_base (s : State) : (s.advance).base = s.base := rfl
@[simp] theorem State.advance_leastPressed (s : State) : (s.advance).leastPressed = s.leastPressed := rfl

/-! ## complete -/

@[simp] theorem State.complete_V (s : State) : (s.complete).V = s.V := rfl
@[simp] theorem State.complete_I (s : State) : (s.complete).I = s.I := rfl
@[simp] theorem State.complete_PC (s : State) : (s.complete).PC = s.PC + 2 := rfl
@[simp] theorem State.complete_SP (s : State) : (s.complete).SP = s.SP := rfl
@[simp] theorem State.complete_stack (s : State) : (s.complete).stack = s.stack := rfl
@[simp] theorem State.complete_DT (s : State) : (s.complete).DT = s.DT := rfl
@[simp] theorem State.complete_ST (s : State) : (s.complete).ST = s.ST := rfl
@[simp] theorem State.complete_drawFlag (s : State) : (s.complete).drawFlag = s.drawFlag := rfl
@[simp] theorem State.complete_run (s : State) : (s.complete).run = s.run := rfl
@[simp] theorem State.complete_mem (s : State) : (s.complete).mem = s.mem := rfl
@[simp] theorem State.complete_fb (s : State) : (s.complete).fb = s.fb := rfl
@[simp] theorem State.complete_keys (s : State) : (s.complete).keys = s.keys := rfl
@[simp] theorem State.complete_draws (s : State) : (s.complete).draws = s.draws := rfl
@[simp] theorem State.complete_result (s : State) : (s.complete).result = .some ⟨.none, s.drawFlag⟩ := rfl
@[simp] theorem State.complete_loaded (s : State) : (s.complete).loaded = s.loaded := rfl
@[simp] theorem State.complete_getV (s : State) (y : Ix) : (s.complete).getV y = s.getV y := rfl
@[simp] theorem State.complete_getStack (s : State) (i : Ix) : (s.complete).getStack i = s.getStack i := rfl
@[simp] theorem State.complete_getKey (s : State) (l : Ix) : (s.complete).getKey l = s.getKey l := rfl
@[simp] theorem State.complete_readMem (s : State) (n : Nat) : (s.complete).readMem n = s.readMem n := rfl
@[simp] theorem State.complete_pixel (s : State) (row : Fin 32) (col : Fin 64) : (s.complete).pixel row col = s.pixel row col := rfl
@[simp] theorem State.complete_base (s : State) : (s.complete).base = s.base := rfl
@[simp] theorem State.complete_leastPressed (s : State) : (s.complete).leastPressed = s.leastPressed := rfl

/-! ## redirect -/

@[simp] theorem State.redirect_V (s : State) (a : Word) : (s.redirect a).V = s.V := rfl
@[simp] theorem State.redirect_I (s : State) (a : Word) : (s.redirect a).I = s.I := rfl
@[simp] theorem State.redirect_PC (s : State) (a : Word) : (s.redirect a).PC = a := rfl
@[simp] theorem State.redirect_SP (s : State) (a : Word) : (s.redirect a).SP = s.SP := rfl
@[simp] theorem State.redirect_stack (s : State) (a : Word) : (s.redirect a).stack = s.stack := rfl
@[simp] theorem State.redirect_DT (s : State) (a : Word) : (s.redirect a).DT = s.DT := rfl
@[simp] theorem State.redirect_ST (s : State) (a : Word) : (s.redirect a).ST = s.ST := rfl
@[simp] theorem State.redirect_drawFlag (s : State) (a : Word) : (s.redirect a).drawFlag = s.drawFlag := rfl
@[simp] theorem State.redirect_run (s : State) (a : Word) : (s.redirect a).run = s.run := rfl
@[simp] theorem State.redirect_mem (s : State) (a : Word) : (s.redirect a).mem = s.mem := rfl
@[simp] theorem State.redirect_fb (s : State) (a : Word) : (s.redirect a).fb = s.fb := rfl
@[simp] theorem State.redirect_keys (s : State) (a : Word) : (s.redirect a).keys = s.keys := rfl
@[simp] theorem State.redirect_draws (s : State) (a : Word) : (s.redirect a).draws = s.draws := rfl
@[simp] theorem State.redirect_result (s : State) (a : Word) : (s.redirect a).result = .some ⟨.none, s.drawFlag⟩ := rfl
@[simp] theorem State.redirect_loaded (s : State) (a : Word) : (s.redirect a).loaded = s.loaded := rfl
@[simp] theorem State.redirect_getV (s : State) (a : Word) (y : Ix) : (s.redirect a).getV y = s.getV y := rfl
@[simp] theorem State.redirect_getStack (s : State) (a : Word) (i : Ix) : (s.redirect a).getStack i = s.getStack i := rfl
@[simp] theorem State.redirect_getKey (s : State) (a : Word) (l : Ix) : (s.redirect a).getKey l = s.getKey l := rfl
@[simp] theorem State.redirect_readMem (s : State) (a : Word) (n : Nat) : (s.redirect a).readMem n = s.readMem n := rfl
@[simp] theorem State.redirect_pixel (s : State) (a : Word) (row : Fin 32) (col : Fin 64) : (s.redirect a).pixel row col = s.pixel row col := rfl
@[simp] theorem State.redirect_base (s : State) (a : Word) : (s.redirect a).base = s.base := rfl
@[simp] theorem State.redirect_leastPressed (s : State) (a : Word) : (s.redirect a).leastPressed = s.leastPressed := rfl

/-! ## rejectOperand -/

@[simp] theorem State.rejectOperand_V (s : State) (i : Instr) : (s.rejectOperand i).V = s.V := rfl
@[simp] theorem State.rejectOperand_I (s : State) (i : Instr) : (s.rejectOperand i).I = s.I := rfl
@[simp] theorem State.rejectOperand_PC (s : State) (i : Instr) : (s.rejectOperand i).PC = s.PC + 2 := rfl
@[simp] theorem State.rejectOperand_SP (s : State) (i : Instr) : (s.rejectOperand i).SP = s.SP := rfl
@[simp] theorem State.rejectOperand_stack (s : State) (i : Instr) : (s.rejectOperand i).stack = s.stack := rfl
@[simp] theorem State.rejectOperand_DT (s : State) (i : Instr) : (s.rejectOperand i).DT = s.DT := rfl
@[simp] theorem State.rejectOperand_ST (s : State) (i : Instr) : (s.rejectOperand i).ST = s.ST := rfl
@[simp] theorem State.rejectOperand_drawFlag (s : State) (i : Instr) : (s.rejectOperand i).drawFlag = s.drawFlag := rfl
@[simp] theorem State.rejectOperand_run (s : State) (i : Instr) : (s.rejectOperand i).run = s.run := rfl
@[simp] theorem State.rejectOperand_mem (s : State) (i : Instr) : (s.rejectOperand i).mem = s.mem := rfl
@[simp] theorem State.rejectOperand_fb (s : State) (i : Instr) : (s.rejectOperand i).fb = s.fb := rfl
@[simp] theorem State.rejectOperand_keys (s : State) (i : Instr) : (s.rejectOperand i).keys = s.keys := rfl
@[simp] theorem State.rejectOperand_draws (s : State) (i : Instr) : (s.rejectOperand i).draws = s.draws := rfl
@[simp] theorem State.rejectOperand_result (s : State) (i : Instr) : (s.rejectOperand i).result = .some ⟨.invalidOperandIndex (encode i), s.drawFlag⟩ := rfl
@[simp] theorem State.rejectOperand_loaded (s : State) (i : Instr) : (s.rejectOperand i).loaded = s.loaded := rfl
@[simp] theorem State.rejectOperand_getV (s : State) (i : Instr) (y : Ix) : (s.rejectOperand i).getV y = s.getV y := rfl
@[simp] theorem State.rejectOperand_getStack (s : State) (i : Instr) (j : Ix) : (s.rejectOperand i).getStack j = s.getStack j := rfl
@[simp] theorem State.rejectOperand_getKey (s : State) (i : Instr) (l : Ix) : (s.rejectOperand i).getKey l = s.getKey l := rfl
@[simp] theorem State.rejectOperand_readMem (s : State) (i : Instr) (n : Nat) : (s.rejectOperand i).readMem n = s.readMem n := rfl
@[simp] theorem State.rejectOperand_pixel (s : State) (i : Instr) (row : Fin 32) (col : Fin 64) : (s.rejectOperand i).pixel row col = s.pixel row col := rfl
@[simp] theorem State.rejectOperand_base (s : State) (i : Instr) : (s.rejectOperand i).base = s.base := rfl
@[simp] theorem State.rejectOperand_leastPressed (s : State) (i : Instr) : (s.rejectOperand i).leastPressed = s.leastPressed := rfl

/-! ## raiseFatal -/

@[simp] theorem State.raiseFatal_V (s : State) (f : Fatal) : (s.raiseFatal f).V = s.V := rfl
@[simp] theorem State.raiseFatal_I (s : State) (f : Fatal) : (s.raiseFatal f).I = s.I := rfl
@[simp] theorem State.raiseFatal_PC (s : State) (f : Fatal) : (s.raiseFatal f).PC = s.PC := rfl
@[simp] theorem State.raiseFatal_SP (s : State) (f : Fatal) : (s.raiseFatal f).SP = s.SP := rfl
@[simp] theorem State.raiseFatal_stack (s : State) (f : Fatal) : (s.raiseFatal f).stack = s.stack := rfl
@[simp] theorem State.raiseFatal_DT (s : State) (f : Fatal) : (s.raiseFatal f).DT = s.DT := rfl
@[simp] theorem State.raiseFatal_ST (s : State) (f : Fatal) : (s.raiseFatal f).ST = s.ST := rfl
@[simp] theorem State.raiseFatal_drawFlag (s : State) (f : Fatal) : (s.raiseFatal f).drawFlag = s.drawFlag := rfl
@[simp] theorem State.raiseFatal_run (s : State) (f : Fatal) : (s.raiseFatal f).run = .halt f.code := rfl
@[simp] theorem State.raiseFatal_mem (s : State) (f : Fatal) : (s.raiseFatal f).mem = s.mem := rfl
@[simp] theorem State.raiseFatal_fb (s : State) (f : Fatal) : (s.raiseFatal f).fb = s.fb := rfl
@[simp] theorem State.raiseFatal_keys (s : State) (f : Fatal) : (s.raiseFatal f).keys = s.keys := rfl
@[simp] theorem State.raiseFatal_draws (s : State) (f : Fatal) : (s.raiseFatal f).draws = s.draws := rfl
@[simp] theorem State.raiseFatal_result (s : State) (f : Fatal) : (s.raiseFatal f).result = .some ⟨.fatal f, s.drawFlag⟩ := rfl
@[simp] theorem State.raiseFatal_loaded (s : State) (f : Fatal) : (s.raiseFatal f).loaded = s.loaded := rfl
@[simp] theorem State.raiseFatal_getV (s : State) (f : Fatal) (y : Ix) : (s.raiseFatal f).getV y = s.getV y := rfl
@[simp] theorem State.raiseFatal_getStack (s : State) (f : Fatal) (i : Ix) : (s.raiseFatal f).getStack i = s.getStack i := rfl
@[simp] theorem State.raiseFatal_getKey (s : State) (f : Fatal) (l : Ix) : (s.raiseFatal f).getKey l = s.getKey l := rfl
@[simp] theorem State.raiseFatal_readMem (s : State) (f : Fatal) (n : Nat) : (s.raiseFatal f).readMem n = s.readMem n := rfl
@[simp] theorem State.raiseFatal_pixel (s : State) (f : Fatal) (row : Fin 32) (col : Fin 64) : (s.raiseFatal f).pixel row col = s.pixel row col := rfl
@[simp] theorem State.raiseFatal_base (s : State) (f : Fatal) : (s.raiseFatal f).base = s.base := rfl
@[simp] theorem State.raiseFatal_leastPressed (s : State) (f : Fatal) : (s.raiseFatal f).leastPressed = s.leastPressed := rfl

/-! ## skipIf: only PC, and PC by 2 when the skip is taken -/

@[simp] theorem State.skipIf_V (s : State) (t : Bool) : (s.skipIf t).V = s.V := by cases t <;> rfl
@[simp] theorem State.skipIf_I (s : State) (t : Bool) : (s.skipIf t).I = s.I := by cases t <;> rfl
@[simp] theorem State.skipIf_PC (s : State) (t : Bool) : (s.skipIf t).PC = if t then s.PC + 2 else s.PC := by cases t <;> rfl
@[simp] theorem State.skipIf_SP (s : State) (t : Bool) : (s.skipIf t).SP = s.SP := by cases t <;> rfl
@[simp] theorem State.skipIf_stack (s : State) (t : Bool) : (s.skipIf t).stack = s.stack := by cases t <;> rfl
@[simp] theorem State.skipIf_DT (s : State) (t : Bool) : (s.skipIf t).DT = s.DT := by cases t <;> rfl
@[simp] theorem State.skipIf_ST (s : State) (t : Bool) : (s.skipIf t).ST = s.ST := by cases t <;> rfl
@[simp] theorem State.skipIf_drawFlag (s : State) (t : Bool) : (s.skipIf t).drawFlag = s.drawFlag := by cases t <;> rfl
@[simp] theorem State.skipIf_run (s : State) (t : Bool) : (s.skipIf t).run = s.run := by cases t <;> rfl
@[simp] theorem State.skipIf_mem (s : State) (t : Bool) : (s.skipIf t).mem = s.mem := by cases t <;> rfl
@[simp] theorem State.skipIf_fb (s : State) (t : Bool) : (s.skipIf t).fb = s.fb := by cases t <;> rfl
@[simp] theorem State.skipIf_keys (s : State) (t : Bool) : (s.skipIf t).keys = s.keys := by cases t <;> rfl
@[simp] theorem State.skipIf_draws (s : State) (t : Bool) : (s.skipIf t).draws = s.draws := by cases t <;> rfl
@[simp] theorem State.skipIf_result (s : State) (t : Bool) : (s.skipIf t).result = s.result := by cases t <;> rfl
@[simp] theorem State.skipIf_loaded (s : State) (t : Bool) : (s.skipIf t).loaded = s.loaded := by cases t <;> rfl
@[simp] theorem State.skipIf_getV (s : State) (t : Bool) (y : Ix) : (s.skipIf t).getV y = s.getV y := by cases t <;> rfl
@[simp] theorem State.skipIf_getStack (s : State) (t : Bool) (i : Ix) : (s.skipIf t).getStack i = s.getStack i := by cases t <;> rfl
@[simp] theorem State.skipIf_getKey (s : State) (t : Bool) (l : Ix) : (s.skipIf t).getKey l = s.getKey l := by cases t <;> rfl
@[simp] theorem State.skipIf_readMem (s : State) (t : Bool) (n : Nat) : (s.skipIf t).readMem n = s.readMem n := by cases t <;> rfl
@[simp] theorem State.skipIf_pixel (s : State) (t : Bool) (row : Fin 32) (col : Fin 64) : (s.skipIf t).pixel row col = s.pixel row col := by cases t <;> rfl

end Sys2Proof.Machine
end

