-- ==== Sys2Proof/Laws/Ops.lean ====
section
/-! SUPPORT. What the shared operations do, each said once: register, stack and key reads after writes, pixels, the address
checks, the pressed key, and the ways an instruction ends. -/

namespace Sys2Proof.Machine

/-! ## Reads after writes -/

theorem State.getV_setV (s : State) (x y : Ix) (b : Byte) : (s.setV x b).getV y = if y = x then b else s.getV y := by
  simp only [State.getV, State.setV, Fin.getElem_fin, Vector.getElem_set, Fin.ext_iff, eq_comm]

@[simp] theorem State.getV_setV_self (s : State) (x : Ix) (b : Byte) : (s.setV x b).getV x = b := by
  simp [State.getV_setV]

theorem State.getV_setV_other (s : State) {x y : Ix} (b : Byte) (h : y ≠ x) : (s.setV x b).getV y = s.getV y := by
  simp [State.getV_setV, h]

theorem State.getStack_setStack (s : State) (i j : Ix) (a : Word) :
    (s.setStack i a).getStack j = if j = i then a else s.getStack j := by
  simp only [State.getStack, State.setStack, Fin.getElem_fin, Vector.getElem_set, Fin.ext_iff, eq_comm]

theorem State.getKey_setKey (s : State) (k l : Ix) (b : Byte) :
    (s.setKey k b).getKey l = if l = k then b else s.getKey l := by
  simp only [State.getKey, State.setKey, Fin.getElem_fin, Vector.getElem_set, Fin.ext_iff, eq_comm]

theorem Framebuffer.get_put (fb : Framebuffer) (r r' : Fin 32) (c c' : Fin 64) (p : Bool) :
    Framebuffer.get (Framebuffer.put fb r c p) r' c' = if r' = r ∧ c' = c then p else Framebuffer.get fb r' c' := by
  simp only [Framebuffer.get, Framebuffer.put, Fin.getElem_fin, Vector.getElem_set, Fin.ext_iff]
  by_cases hr : r.val = r'.val
  · by_cases hc : c.val = c'.val
    · simp [hr, hc]
    · simp [hr, hc, Ne.symm hc]
  · simp [hr, Ne.symm hr]

@[simp] theorem Framebuffer.get_clear (r : Fin 32) (c : Fin 64) : Framebuffer.get Framebuffer.clear r c = false := by
  simp [Framebuffer.get, Framebuffer.clear]

/-! ## The stack pointer -/

/-- A push raises the depth by one, and there is none exactly at depth 16 (41_control_flow.md rule R125). -/
theorem nextSP_spec (p : Option Ix) :
    (nextSP p = .none ∧ stackDepth p = 16) ∨ ∃ j, nextSP p = .some j ∧ j.val = stackDepth p ∧ stackDepth p < 16 := by
  cases p with
  | none => exact .inr ⟨0, rfl, rfl, by decide⟩
  | some j =>
    by_cases h : j.val + 1 < 16
    · exact .inr ⟨⟨j.val + 1, h⟩, by simp [nextSP, h], rfl, h⟩
    · exact .inl ⟨by simp [nextSP, h], by have := j.isLt; simp only [stackDepth]; omega⟩

/-- A pop lowers the depth by one (41_control_flow.md rule R120). -/
theorem stackDepth_prevSP (j : Ix) : stackDepth (prevSP j) = j.val := by
  unfold prevSP
  split
  · simp only [stackDepth]; omega
  · simp only [stackDepth]; omega

/-- A pop undoes a push (41_control_flow.md rule R124). -/
theorem prevSP_of_nextSP {p : Option Ix} {j : Ix} (h : nextSP p = .some j) : prevSP j = p := by
  cases p with
  | none => simp only [nextSP, Option.some.injEq] at h; subst h; rfl
  | some i =>
    by_cases hi : i.val + 1 < 16
    · simp only [nextSP, hi, dite_true, Option.some.injEq] at h
      subst h
      simp [prevSP]
    · simp [nextSP, hi] at h

/-! ## The address checks (20_memory.md rules R55, R57) -/

/-- `firstAddr` finds an address exactly when one of the n has the property, and then the lowest. -/
theorem firstAddr_none {p : Nat → Bool} {base n : Nat} : firstAddr p base n = .none ↔ ∀ k < n, p (base + k) = false := by
  simp [firstAddr]

theorem firstAddr_some {p : Nat → Bool} {base n a : Nat} (h : firstAddr p base n = .some a) :
    ∃ k < n, a = base + k ∧ p a = true ∧ ∀ j < k, p (base + j) = false := by
  unfold firstAddr at h
  rw [List.find?_eq_some_iff_getElem] at h
  obtain ⟨hp, i, hi, ha, hlt⟩ := h
  simp only [List.getElem_map, List.getElem_range] at ha hlt
  refine ⟨i, by simpa using hi, ha.symm, hp, fun j hj => ?_⟩
  simpa using hlt j hj

/-- No address is out of range: either there is none, or the last one exists. -/
theorem firstOutOfRange_none {base n : Nat} : firstOutOfRange base n = .none ↔ n = 0 ∨ base + n ≤ Config.memSize := by
  simp only [firstOutOfRange, firstAddr_none, decide_eq_false_iff_not, not_le]
  constructor
  · intro h
    cases n with
    | zero => exact .inl rfl
    | succ m => have := h m (Nat.lt_succ_self m); right; omega
  · rintro (rfl | h) k hk
    · exact absurd hk (by omega)
    · omega

/-- The lowest address out of range: the base itself, or 0x1000 (60_exceptions.md rule R200). -/
theorem firstOutOfRange_some {base n a : Nat} (h : firstOutOfRange base n = .some a) :
    a = max base Config.memSize ∧ a < base + n := by
  obtain ⟨k, hk, rfl, hp, hlt⟩ := firstAddr_some h
  simp only [decide_eq_true_eq] at hp
  refine ⟨?_, by omega⟩
  cases k with
  | zero => omega
  | succ j => have := hlt j (Nat.lt_succ_self j); simp only [decide_eq_false_iff_not] at this; omega

theorem firstProtected_none {base n : Nat} : firstProtected base n = .none ↔ n = 0 ∨ Config.programBase ≤ base := by
  simp only [firstProtected, firstAddr_none, decide_eq_false_iff_not, not_lt]
  constructor
  · intro h
    cases n with
    | zero => exact .inl rfl
    | succ m => exact .inr (h 0 (Nat.succ_pos m))
  · rintro (rfl | h) k hk
    · exact absurd hk (by omega)
    · omega

/-- The lowest protected address is the base (60_exceptions.md rule R200). -/
theorem firstProtected_some {base n a : Nat} (h : firstProtected base n = .some a) : a = base ∧ base < Config.programBase := by
  obtain ⟨k, hk, rfl, hp, hlt⟩ := firstAddr_some h
  simp only [decide_eq_true_eq] at hp
  cases k with
  | zero => exact ⟨rfl, hp⟩
  | succ j =>
    have := hlt 0 (Nat.succ_pos j)
    simp only [decide_eq_false_iff_not] at this
    omega

theorem loadCheck_none {base n : Nat} : loadCheck base n = .none ↔ n = 0 ∨ base + n ≤ Config.memSize := by
  simp [loadCheck, firstOutOfRange_none]

/-- A store of n bytes passes its checks exactly when all of them lie in 0x200-0xFFF. -/
theorem storeCheck_none {base n : Nat} :
    storeCheck base n = .none ↔ n = 0 ∨ (Config.programBase ≤ base ∧ base + n ≤ Config.memSize) := by
  unfold storeCheck
  split
  · next a h =>
    have hne : firstOutOfRange base n ≠ .none := by simp [h]
    rw [Ne, firstOutOfRange_none] at hne
    simp only [reduceCtorEq, false_iff]
    omega
  · next h =>
    rw [firstOutOfRange_none] at h
    simp only [Option.map_eq_none_iff, firstProtected_none]
    omega

/-! ## Register lists and keys -/

theorem mem_allIx (k : Ix) : k ∈ allIx := by revert k; decide

theorem mem_regsUpTo (x k : Ix) : k ∈ regsUpTo x ↔ k ≤ x := by
  simp [regsUpTo, mem_allIx]

theorem regsUpTo_length (x : Ix) : (regsUpTo x).length = x.val + 1 := by revert x; decide

/-- The k-th register of the list is V[k] (44_index_memory.md rule R176). -/
theorem regsUpTo_getElem (x : Ix) (k : Nat) (hk : k < (regsUpTo x).length) : ((regsUpTo x)[k]).val = k := by
  revert x k; decide

theorem getV_loadRegs (m : Memory) (base : Nat) (y : Ix) :
    ∀ (ks : List Ix) (s : State), (loadRegs m base ks s).getV y = if y ∈ ks then Memory.read m (base + y.val) else s.getV y
  | [], s => by simp [loadRegs]
  | k :: ks, s => by
    have ih := getV_loadRegs m base y ks (s.setV k (Memory.read m (base + k.val)))
    simp only [loadRegs, List.foldl_cons] at ih ⊢
    rw [ih, State.getV_setV]
    by_cases hy : y ∈ ks
    · simp [hy]
    · by_cases hk : y = k
      · subst hk; simp [hy]
      · simp [hy, hk]

/-- Loading registers changes V and nothing else. -/
theorem loadRegs_eq (m : Memory) (base : Nat) :
    ∀ (ks : List Ix) (s : State), loadRegs m base ks s = { s with V := (loadRegs m base ks s).V }
  | [], _ => rfl
  | k :: ks, s => by
    have ih := loadRegs_eq m base ks (s.setV k (Memory.read m (base + k.val)))
    simp only [loadRegs, List.foldl_cons] at ih ⊢
    rw [ih]
    rfl

theorem keyIndex_some {v : Byte} {k : Ix} : keyIndex v = .some k ↔ v.toNat = k.val := by
  unfold keyIndex
  split
  · simp only [Option.some.injEq, Fin.ext_iff]
  · next h => simp only [reduceCtorEq, false_iff]; have := k.isLt; omega

theorem keyIndex_none {v : Byte} : keyIndex v = .none ↔ 15 < v.toNat := by
  unfold keyIndex
  split
  · simp only [reduceCtorEq, false_iff]; omega
  · simp only [true_iff]; omega

theorem leastPressed_none {s : State} : s.leastPressed = .none ↔ ∀ k, s.getKey k = 0 := by
  simp [State.leastPressed, State.pressed, mem_allIx]

/-- The pressed key of the least index (45_keys_timers.md rules R193, R195). -/
theorem leastPressed_some {s : State} {k : Ix} (h : s.leastPressed = .some k) :
    s.getKey k ≠ 0 ∧ ∀ j < k, s.getKey j = 0 := by
  unfold State.leastPressed at h
  rw [List.find?_eq_some_iff_getElem] at h
  obtain ⟨hp, i, hi, hk, hlt⟩ := h
  have hall : ∀ (n : Nat) (hn : n < allIx.length), (allIx[n]).val = n := by decide
  refine ⟨by simpa [State.pressed] using hp, fun j hj => ?_⟩
  have hki : k.val = i := by rw [← hk]; exact hall i hi
  have hj' : j.val < i := by rw [← hki]; exact hj
  have := hlt j.val hj'
  have hje : allIx[j.val]'(by omega) = j := Fin.ext (hall j.val (by omega))
  rw [hje] at this
  simpa [State.pressed] using this

/-! ## How the shared instruction shapes end -/

theorem writeV_next (x : Ix) (b : Byte) (s : State) : writeV x b s = .next (s.setV x b).complete := rfl

theorem skipWhen_next (taken : Bool) (s : State) : skipWhen taken s = .next (s.skipIf taken).complete := rfl

/-- A skip moves PC by 4 in total, or by 2 when it is not taken (30_encoding.md rule R99). -/
theorem State.skipIf_complete_PC (s : State) (taken : Bool) :
    (s.skipIf taken).complete.PC = if taken then s.PC + 4 else s.PC + 2 := by
  cases taken
  · rfl
  · show s.PC + 2 + 2 = s.PC + 4
    rw [BitVec.add_assoc]
    rfl

theorem writeI_next (a : Word) (s : State) : writeI a s = .next (s.setI a).complete := rfl

/-- A flag-writing instruction runs when its result register is not VF, and is rejected otherwise (43_alu.md rule R140). -/
theorem writeFlagV_cases (i : Instr) (x : Ix) (r : Byte × Bool) (s : State) :
    (x ≠ vf ∧ writeFlagV i x r s = .next ((s.setV vf (flagByte r.2)).setV x r.1).complete) ∨
    (x = vf ∧ writeFlagV i x r s = .next (s.rejectOperand i)) := by
  unfold writeFlagV flagDestValid
  by_cases h : x = vf
  · exact .inr ⟨h, by simp [h]⟩
  · exact .inl ⟨h, by simp [h]⟩

/-- A store through I writes its bytes, all in 0x200-0xFFF, or takes a fatal condition and writes none (20_memory.md rule R60). -/
theorem storeAtI_cases (bytes : List Byte) (s : State) :
    ((bytes.length = 0 ∨ Config.programBase ≤ s.base ∧ s.base + bytes.length ≤ Config.memSize) ∧
      storeAtI bytes s = .next (s.setMem (Memory.writeList s.mem s.base bytes)).complete) ∨
    ∃ f, storeCheck s.base bytes.length = .some f ∧ storeAtI bytes s = .next (s.raiseFatal f) := by
  unfold storeAtI
  split
  · next f h => exact .inr ⟨f, h, rfl⟩
  · next h => exact .inl ⟨storeCheck_none.mp h, rfl⟩

theorem skipOnKey_cases (x : Ix) (wanted : Bool) (s : State) :
    (∃ k, (s.getV x).toNat = k.val ∧ skipOnKey x wanted s = .next (s.skipIf (s.pressed k == wanted)).complete) ∨
    (15 < (s.getV x).toNat ∧ skipOnKey x wanted s = .next (s.raiseFatal (.keyOutOfRange (s.getV x)))) := by
  unfold skipOnKey
  split
  · next h => exact .inr ⟨keyIndex_none.mp h, rfl⟩
  · next k h => exact .inl ⟨k, keyIndex_some.mp h, rfl⟩

/-- Drawing changes the framebuffer only through `drawPixel`; a row whose bits are all 0 changes nothing (40_display.md rule R115). -/
theorem drawPixel_false (row : Fin 32) (col : Fin 64) (d : Framebuffer × Bool) : drawPixel row col false d = d := rfl

theorem drawSprite_zero (m : Memory) (base cx cy : Nat) (fb : Framebuffer) : drawSprite m base cx cy 0 fb = (fb, false) := rfl

/-- One more row of a sprite (40_display.md rule R112). -/
theorem drawSprite_succ (m : Memory) (base cx cy n : Nat) (fb : Framebuffer) :
    drawSprite m base cx cy (n + 1) fb =
      drawRow cx (wrapRow (cy + n)) (Memory.read m (base + n)) (drawSprite m base cx cy n fb) := by
  simp [drawSprite, List.range_succ]

/-- The fetch succeeds exactly where PC and PC + 1 exist, with the word big-endian (20_memory.md rules R52, R56). -/
theorem fetch_cases (s : State) :
    (s.PC.toNat + 1 < Config.memSize ∧ fetch s = .ok (wordOfBytes (s.readMem s.PC.toNat) (s.readMem (s.PC.toNat + 1)))) ∨
    (Config.memSize ≤ s.PC.toNat + 1 ∧ fetch s = .error (.memoryOutOfRange (max s.PC.toNat Config.memSize))) := by
  unfold fetch
  split
  · next a h =>
    have := firstOutOfRange_some h
    exact .inr ⟨by omega, by rw [this.1]⟩
  · next h =>
    rw [firstOutOfRange_none] at h
    exact .inl ⟨by omega, rfl⟩

/-- Everything a step can be (30_encoding.md rule R95, 60_exceptions.md rule R211). -/
theorem step_cases (s : State) :
    (∃ c, s.run = .halt c ∧ step s = .next (haltedStep c s)) ∨
    (∃ x, s.run = .waitKey x ∧ step s = .next (waitStep x s)) ∨
    (s.run = .run ∧ ∃ f, fetch s = .error f ∧ step s = .next (s.raiseFatal f)) ∨
    (s.run = .run ∧ ∃ w e, fetch s = .ok w ∧ decodeWord w = .error e ∧ step s = .next (unknownOpcode w s)) ∨
    (s.run = .run ∧ ∃ w i, fetch s = .ok w ∧ decodeWord w = .ok i ∧ step s = exec i s) := by
  unfold step
  split
  · next c h => exact .inl ⟨c, h, rfl⟩
  · next x h => exact .inr (.inl ⟨x, h, rfl⟩)
  · next h =>
    split
    · next f hf => exact .inr (.inr (.inl ⟨h, f, hf, rfl⟩))
    · next w hf =>
      split
      · next e he => exact .inr (.inr (.inr (.inl ⟨h, w, e, hf, he, rfl⟩)))
      · next i hi => exact .inr (.inr (.inr (.inr ⟨h, w, i, hf, hi, rfl⟩)))

end Sys2Proof.Machine
end

