-- ==== Sys2Proof/Laws/Core.lean ====
section
/-! SUPPORT. Running the machine the host reads (Host/Core.lean), first for any machine, then in the model's own types. -/

namespace Sys2Proof

theorem anyCore_run_succ (M : Host.Core) {s t : M.State} (n : Nat) (h : M.step s = .next t) : M.run (n + 1) s = M.run n t := by
  simp [Host.Core.run, h]

theorem anyCore_run_last (M : Host.Core) :
    ∀ (n : Nat) {s t : M.State}, M.run n s = .next t → M.run (n + 1) s = M.step t
  | 0, s, t, h => by
    have hst : s = t := by simpa [Host.Core.run] using h
    subst hst
    cases hs : M.step s <;> simp [Host.Core.run, hs]
  | n + 1, s, t, h => by
    cases hs : M.step s with
    | next u =>
      rw [anyCore_run_succ M _ hs] at h ⊢
      exact anyCore_run_last M n h
    | fault r => simp [Host.Core.run, hs] at h
    | refused r => simp [Host.Core.run, hs] at h

namespace Machine

theorem core_run_zero (s : State) : Sys2Proof.core.run 0 s = (.next s : Host.Outcome State Fault Refusal) := rfl

/-- A run whose first step answers a next state goes on from it. -/
theorem core_run_succ {s t : State} (n : Nat) (h : step s = .next t) :
    (Sys2Proof.core.run (n + 1) s : Host.Outcome State Fault Refusal) = Sys2Proof.core.run n t :=
  anyCore_run_succ Sys2Proof.core n h

/-- n + 1 steps are n steps and one more. -/
theorem core_run_last (n : Nat) {s t : State} (h : (Sys2Proof.core.run n s : Host.Outcome State Fault Refusal) = .next t) :
    (Sys2Proof.core.run (n + 1) s : Host.Outcome State Fault Refusal) = step t :=
  anyCore_run_last Sys2Proof.core n h

end Machine

end Sys2Proof
end

