-- ==== Sys2Proof/Laws/Decode.lean ====
section
/-! SUPPORT. The fields of a word in each format (30_encoding.md rules R81, R82): what the decoder reads of what the encoder
puts together, and that a stored word is fetched back. -/

namespace Sys2Proof

theorem Word.op_encodeAddr (op : BitVec 4) (nnn : Addr12) : (encodeAddr op nnn).op = op := by
  ext i hi
  simp only [Word.op, encodeAddr, BitVec.getElem_extractLsb', BitVec.getLsbD_append]
  simp [show ¬ 12 + i < 12 by omega, BitVec.getLsbD_eq_getElem hi]

theorem Word.nnn_encodeAddr (op : BitVec 4) (nnn : Addr12) : (encodeAddr op nnn).nnn = nnn := by
  ext i hi
  simp only [Word.nnn, encodeAddr, BitVec.getElem_extractLsb', BitVec.getLsbD_append]
  simp [hi]

theorem Word.op_encodeXKK (op : BitVec 4) (x : Ix) (kk : Byte) : (encodeXKK op x kk).op = op := by
  ext i hi
  simp only [Word.op, encodeXKK, BitVec.getElem_extractLsb', BitVec.getLsbD_append]
  simp [show ¬ 12 + i < 8 by omega, show ¬ 12 + i - 8 < 4 by omega, show 12 + i - 8 - 4 = i by omega,
    BitVec.getLsbD_eq_getElem hi]

theorem Word.x_encodeXKK (op : BitVec 4) (x : Ix) (kk : Byte) : (encodeXKK op x kk).x = x := by
  have h : (encodeXKK op x kk).extractLsb' 8 4 = nibble x := by
    ext i hi
    simp only [encodeXKK, BitVec.getElem_extractLsb', BitVec.getLsbD_append]
    simp [show ¬ 8 + i < 8 by omega, hi]
  simp [Word.x, h, nibble]

theorem Word.kk_encodeXKK (op : BitVec 4) (x : Ix) (kk : Byte) : (encodeXKK op x kk).kk = kk := by
  ext i hi
  simp only [Word.kk, encodeXKK, BitVec.getElem_extractLsb', BitVec.getLsbD_append]
  simp [hi]

theorem Word.op_encodeXYN (op : BitVec 4) (x y : Ix) (n : BitVec 4) : (encodeXYN op x y n).op = op := by
  ext i hi
  simp only [Word.op, encodeXYN, BitVec.getElem_extractLsb', BitVec.getLsbD_append]
  simp [show ¬ 12 + i < 4 by omega, show ¬ 12 + i - 4 < 4 by omega, show ¬ 12 + i - 4 - 4 < 4 by omega,
    show 12 + i - 4 - 4 - 4 = i by omega, BitVec.getLsbD_eq_getElem hi]

theorem Word.x_encodeXYN (op : BitVec 4) (x y : Ix) (n : BitVec 4) : (encodeXYN op x y n).x = x := by
  have h : (encodeXYN op x y n).extractLsb' 8 4 = nibble x := by
    ext i hi
    simp only [encodeXYN, BitVec.getElem_extractLsb', BitVec.getLsbD_append]
    simp [show ¬ 8 + i < 4 by omega, show ¬ 8 + i - 4 < 4 by omega, show 8 + i - 4 - 4 = i by omega, hi]
  simp [Word.x, h, nibble]

theorem Word.y_encodeXYN (op : BitVec 4) (x y : Ix) (n : BitVec 4) : (encodeXYN op x y n).y = y := by
  have h : (encodeXYN op x y n).extractLsb' 4 4 = nibble y := by
    ext i hi
    simp only [encodeXYN, BitVec.getElem_extractLsb', BitVec.getLsbD_append]
    simp [show ¬ 4 + i < 4 by omega, hi]
  simp [Word.y, h, nibble]

theorem Word.n_encodeXYN (op : BitVec 4) (x y : Ix) (n : BitVec 4) : (encodeXYN op x y n).n = n.toFin := by
  have h : (encodeXYN op x y n).extractLsb' 0 4 = n := by
    ext i hi
    simp only [encodeXYN, BitVec.getElem_extractLsb', BitVec.getLsbD_append]
    simp [hi]
  simp [Word.n, h]

/-! ## A word is its fields put together -/

theorem Word.encodeAddr_fields (w : Word) : encodeAddr w.op w.nnn = w := by
  apply BitVec.eq_of_getLsbD_eq
  intro i hi
  simp only [encodeAddr, Word.op, Word.nnn, BitVec.getLsbD_append, BitVec.getLsbD_extractLsb']
  by_cases h : i < 12
  · simp [h]
  · simp [h, show i - 12 < 4 by omega, show 12 + (i - 12) = i by omega]

theorem Word.encodeXKK_fields (w : Word) : encodeXKK w.op w.x w.kk = w := by
  apply BitVec.eq_of_getLsbD_eq
  intro i hi
  simp only [encodeXKK, Word.op, Word.x, Word.kk, nibble, BitVec.getLsbD_append, BitVec.ofFin_toFin, BitVec.getLsbD_extractLsb']
  by_cases h : i < 8
  · simp [h]
  · by_cases h3 : i - 8 < 4
    · simp [h, h3, show 8 + (i - 8) = i by omega]
    · simp [h, h3, show i - 8 - 4 < 4 by omega, show 12 + (i - 8 - 4) = i by omega]

theorem Word.encodeXYN_fields (w : Word) : encodeXYN w.op w.x w.y (nibble w.n) = w := by
  apply BitVec.eq_of_getLsbD_eq
  intro i hi
  simp only [encodeXYN, Word.op, Word.x, Word.y, Word.n, nibble, BitVec.getLsbD_append, BitVec.ofFin_toFin,
    BitVec.getLsbD_extractLsb']
  by_cases h : i < 4
  · simp [h]
  · by_cases h2 : i - 4 < 4
    · simp [h, h2, show 4 + (i - 4) = i by omega]
    · by_cases h3 : i - 4 - 4 < 4
      · simp [h, h2, h3, show 8 + (i - 4 - 4) = i by omega]
      · simp [h, h2, h3, show i - 4 - 4 - 4 < 4 by omega, show 12 + (i - 4 - 4 - 4) = i by omega]

/-! ## Bytes -/

/-- A word laid out high byte first is the word that two bytes make (20_memory.md rule R52). -/
theorem wordOfBytes_bytes (w : Word) : wordOfBytes (hiByte w) (loByte w) = w := by
  apply BitVec.eq_of_getLsbD_eq
  intro i hi
  simp only [wordOfBytes, hiByte, loByte, BitVec.getLsbD_append, BitVec.getLsbD_extractLsb']
  by_cases h : i < 8
  · simp [h]
  · simp [h, show i - 8 < 8 by omega, show 8 + (i - 8) = i by omega]

/-- The word two bytes make, as a number: (memory[PC] << 8) | memory[PC+1] (20_memory.md rule R52). -/
theorem toNat_wordOfBytes (hi lo : Byte) : (wordOfBytes hi lo).toNat = hi.toNat * 256 + lo.toNat := by
  simp only [wordOfBytes, BitVec.toNat_append, Nat.shiftLeft_eq]
  rw [← Nat.shiftLeft_eq, ← Nat.shiftLeft_add_eq_or_of_lt lo.isLt, Nat.shiftLeft_eq]

end Sys2Proof
end

