-- ==== Sys2Proof/Laws/Exec.lean ====
section
/-! SUPPORT. What one instruction can do: one inversion lemma per meaning that has more than one outcome, and one for all. -/

namespace Sys2Proof.Machine

theorem execRet_cases (s : State) :
    (s.SP = .none ∧ execRet s = .next (s.raiseFatal .stackUnderflow)) ∨
    ∃ j, s.SP = .some j ∧ execRet s = .next ((s.setSP (prevSP j)).redirect (s.getStack j)) := by
  unfold execRet
  split
  · next h => exact .inl ⟨h, rfl⟩
  · next j h => exact .inr ⟨j, h, rfl⟩

theorem execCall_cases (nnn : Addr12) (s : State) :
    (nextSP s.SP = .none ∧ execCall nnn s = .next (s.raiseFatal .stackOverflow)) ∨
    ∃ j, nextSP s.SP = .some j ∧
      execCall nnn s = .next (((s.setSP (.some j)).setStack j (s.PC + 2)).redirect (extendAddr nnn)) := by
  unfold execCall
  split
  · next h => exact .inl ⟨h, rfl⟩
  · next j h => exact .inr ⟨j, h, rfl⟩

theorem execLdVxMem_cases (x : Ix) (s : State) :
    (loadCheck s.base (x.val + 1) = .none ∧
      execLdVxMem x s = .next (loadRegs s.mem s.base (regsUpTo x) s).complete) ∨
    ∃ f, loadCheck s.base (x.val + 1) = .some f ∧ execLdVxMem x s = .next (s.raiseFatal f) := by
  unfold execLdVxMem
  split
  · next f h => exact .inr ⟨f, h, rfl⟩
  · next h => exact .inl ⟨h, rfl⟩

/-- What Dxyn draws: the framebuffer and the collision (40_display.md rule R112). -/
def drawn (x y n : Ix) (s : State) : Framebuffer × Bool :=
  drawSprite s.mem s.base (s.getV x).toNat (s.getV y).toNat n.val s.fb

theorem execDrw_cases (x y n : Ix) (s : State) :
    (loadCheck s.base n.val = .none ∧ execDrw x y n s =
      .next (((s.setFb (drawn x y n s).1).setV vf (flagByte (drawn x y n s).2)).setDrawFlag true).complete) ∨
    ∃ f, loadCheck s.base n.val = .some f ∧ execDrw x y n s = .next (s.raiseFatal f) := by
  unfold execDrw
  split
  · next f h => exact .inr ⟨f, h, rfl⟩
  · next h => exact .inl ⟨h, rfl⟩

theorem execLdVxK_cases (x : Ix) (s : State) :
    (∃ k, s.leastPressed = .some k ∧ execLdVxK x s = .next (s.setV x (keyCode k)).complete) ∨
    (s.leastPressed = .none ∧ execLdVxK x s = .next ((s.setRun (.waitKey x)).report (.waitingForKey x))) := by
  unfold execLdVxK
  split
  · next k h => exact .inl ⟨k, h, rfl⟩
  · next h => exact .inr ⟨h, rfl⟩

/-- How an instruction can end: it completes, is rejected for its operand, takes a fatal condition, or waits for a key. -/
def Ending (i : Instr) (s t : State) : Prop :=
  (t.result = .some ⟨.none, t.drawFlag⟩ ∧ t.run = s.run) ∨
  (i.wellFormed = false ∧ t = s.rejectOperand i) ∨
  (∃ f, t = s.raiseFatal f) ∨
  ∃ x, i = .ldVxK x ∧ s.leastPressed = .none ∧ t = (s.setRun (.waitKey x)).report (.waitingForKey x)

theorem flagEnding (i : Instr) (x : Ix) (r : Byte × Bool) (s : State) (hi : exec i s = writeFlagV i x r s)
    (hw : x = vf → i.wellFormed = false) : ∃ t, exec i s = .next t ∧ Ending i s t := by
  rcases writeFlagV_cases i x r s with ⟨_, h⟩ | ⟨hx, h⟩
  · exact ⟨_, hi.trans h, .inl ⟨rfl, rfl⟩⟩
  · exact ⟨_, hi.trans h, .inr (.inl ⟨hw hx, rfl⟩)⟩

theorem storeEnding (i : Instr) (bytes : List Byte) (s : State) (hi : exec i s = storeAtI bytes s) :
    ∃ t, exec i s = .next t ∧ Ending i s t := by
  rcases storeAtI_cases bytes s with ⟨_, h⟩ | ⟨f, _, h⟩
  · exact ⟨_, hi.trans h, .inl ⟨rfl, rfl⟩⟩
  · exact ⟨_, hi.trans h, .inr (.inr (.inl ⟨f, rfl⟩))⟩

theorem skipEnding (i : Instr) (taken : Bool) (s : State) (hi : exec i s = skipWhen taken s) :
    ∃ t, exec i s = .next t ∧ Ending i s t :=
  ⟨_, hi.trans (skipWhen_next taken s), .inl ⟨by simp, by simp⟩⟩

theorem keySkipEnding (i : Instr) (x : Ix) (wanted : Bool) (s : State) (hi : exec i s = skipOnKey x wanted s) :
    ∃ t, exec i s = .next t ∧ Ending i s t := by
  rcases skipOnKey_cases x wanted s with ⟨_, _, h⟩ | ⟨_, h⟩
  · exact ⟨_, hi.trans h, .inl ⟨by simp, by simp⟩⟩
  · exact ⟨_, hi.trans h, .inr (.inr (.inl ⟨_, rfl⟩))⟩

/-- Every instruction answers a next state, and ends in one of the four ways (60_exceptions.md rule R200). -/
theorem exec_cases (i : Instr) (s : State) : ∃ t, exec i s = .next t ∧ Ending i s t := by
  cases i with
  | ret =>
    rcases execRet_cases s with ⟨_, h⟩ | ⟨j, _, h⟩
    · exact ⟨_, h, .inr (.inr (.inl ⟨_, rfl⟩))⟩
    · exact ⟨_, h, .inl ⟨rfl, rfl⟩⟩
  | call nnn =>
    rcases execCall_cases nnn s with ⟨_, h⟩ | ⟨j, _, h⟩
    · exact ⟨_, h, .inr (.inr (.inl ⟨_, rfl⟩))⟩
    · exact ⟨_, h, .inl ⟨rfl, rfl⟩⟩
  | seVxKk _ _ | sneVxKk _ _ | seVxVy _ _ | sneVxVy _ _ => exact skipEnding _ _ s rfl
  | skp x => exact keySkipEnding _ x true s rfl
  | sknp x => exact keySkipEnding _ x false s rfl
  | addVxVy x _ | sub x _ | shr x _ | subn x _ | shl x _ =>
    exact flagEnding _ x _ s rfl (fun h => by simp [Instr.wellFormed, h])
  | ldBVx _ | ldMemVx _ => exact storeEnding _ _ s rfl
  | ldVxMem x =>
    rcases execLdVxMem_cases x s with ⟨_, h⟩ | ⟨f, _, h⟩
    · exact ⟨_, h, .inl ⟨rfl, by rw [loadRegs_eq]; rfl⟩⟩
    · exact ⟨_, h, .inr (.inr (.inl ⟨f, rfl⟩))⟩
  | drw x y n =>
    rcases execDrw_cases x y n s with ⟨_, h⟩ | ⟨f, _, h⟩
    · exact ⟨_, h, .inl ⟨rfl, rfl⟩⟩
    · exact ⟨_, h, .inr (.inr (.inl ⟨f, rfl⟩))⟩
  | ldVxK x =>
    rcases execLdVxK_cases x s with ⟨k, _, h⟩ | ⟨hk, h⟩
    · exact ⟨_, h, .inl ⟨rfl, rfl⟩⟩
    · exact ⟨_, h, .inr (.inr (.inr ⟨x, rfl, hk, rfl⟩))⟩
  | cls | jp _ | jpV0 _ | ldVxKk _ _ | addVxKk _ _ | ldVxVy _ _ | or _ _ | and _ _ | xor _ _ | rnd _ _ | ldI _ | addIVx _
  | ldFVx _ | ldVxDt _ | ldDtVx _ | ldStVx _ => exact ⟨_, rfl, .inl ⟨rfl, rfl⟩⟩

end Sys2Proof.Machine
end

