-- ==== Sys2Proof/Laws/PerInstr.lean ====
section
/-! SUPPORT. Facts about the instructions as syntax, one lemma per constructor. -/

namespace Sys2Proof

/-- The place of an instruction's row in the opcode table (30_encoding.md rule R85). -/
def rowNumber : Instr → Nat
  | .cls => 0
  | .ret => 1
  | .jp _ => 2
  | .call _ => 3
  | .seVxKk _ _ => 4
  | .sneVxKk _ _ => 5
  | .seVxVy _ _ => 6
  | .ldVxKk _ _ => 7
  | .addVxKk _ _ => 8
  | .ldVxVy _ _ => 9
  | .or _ _ => 10
  | .and _ _ => 11
  | .xor _ _ => 12
  | .addVxVy _ _ => 13
  | .sub _ _ => 14
  | .shr _ _ => 15
  | .subn _ _ => 16
  | .shl _ _ => 17
  | .sneVxVy _ _ => 18
  | .ldI _ => 19
  | .jpV0 _ => 20
  | .rnd _ _ => 21
  | .drw _ _ _ => 22
  | .skp _ => 23
  | .sknp _ => 24
  | .ldVxDt _ => 25
  | .ldVxK _ => 26
  | .ldDtVx _ => 27
  | .ldStVx _ => 28
  | .addIVx _ => 29
  | .ldFVx _ => 30
  | .ldBVx _ => 31
  | .ldMemVx _ => 32
  | .ldVxMem _ => 33

/-- `a ++ b` masked by `m ++ k` is masked part by part. -/
theorem and_append {n m : Nat} (a k : BitVec n) (b l : BitVec m) : (a ++ b) &&& (k ++ l) = (a &&& k) ++ (b &&& l) := by
  apply BitVec.eq_of_getLsbD_eq
  intro i _
  simp only [BitVec.getLsbD_and, BitVec.getLsbD_append]
  split <;> rfl

theorem and_four_ones (a : BitVec 4) : a &&& 0xF#4 = a := by revert a; decide

theorem addr_row (op : BitVec 4) (nnn : Addr12) : encodeAddr op nnn &&& 0xF000 = op ++ 0#12 := by
  show (op ++ nnn) &&& (0xF#4 ++ 0#12) = op ++ 0#12
  rw [and_append, and_four_ones, BitVec.and_zero]

theorem xkk_row (op : BitVec 4) (x : Ix) (kk : Byte) : encodeXKK op x kk &&& 0xF000 = op ++ 0#4 ++ 0#8 := by
  show (op ++ nibble x ++ kk) &&& (0xF#4 ++ 0#4 ++ 0#8) = op ++ 0#4 ++ 0#8
  rw [and_append, and_append, and_four_ones, BitVec.and_zero, BitVec.and_zero]

theorem xs_row (op : BitVec 4) (x : Ix) (kk : Byte) : encodeXKK op x kk &&& 0xF0FF = op ++ 0#4 ++ kk := by
  show (op ++ nibble x ++ kk) &&& (0xF#4 ++ 0#4 ++ BitVec.allOnes 8) = op ++ 0#4 ++ kk
  rw [and_append, and_append, and_four_ones, BitVec.and_zero, BitVec.and_allOnes]

theorem xy_row (op : BitVec 4) (x y : Ix) (n : BitVec 4) : encodeXYN op x y n &&& 0xF00F = op ++ 0#4 ++ 0#4 ++ n := by
  show (op ++ nibble x ++ nibble y ++ n) &&& (0xF#4 ++ 0#4 ++ 0#4 ++ 0xF#4) = op ++ 0#4 ++ 0#4 ++ n
  rw [and_append, and_append, and_append, and_four_ones, and_four_ones, BitVec.and_zero, BitVec.and_zero]

theorem xyn_row (op : BitVec 4) (x y : Ix) (n : BitVec 4) : encodeXYN op x y n &&& 0xF000 = op ++ 0#4 ++ 0#4 ++ 0#4 := by
  show (op ++ nibble x ++ nibble y ++ n) &&& (0xF#4 ++ 0#4 ++ 0#4 ++ 0#4) = op ++ 0#4 ++ 0#4 ++ 0#4
  rw [and_append, and_append, and_append, and_four_ones, BitVec.and_zero, BitVec.and_zero, BitVec.and_zero]

/-- A word selects the row at a place of the table. -/
def SelectsRow (k : Nat) (w : Word) : Prop := ∃ r, opcodeTable[k]? = some r ∧ w &&& r.mask = r.code

namespace Laws.EncodesItsRow

/-- The encoder's word selects the instruction's own row of the opcode table, whatever the operands (rule R85). -/
def Statement (i : Instr) : Prop := SelectsRow (rowNumber i) (encode i)

theorem cls : Statement .cls := ⟨_, rfl, rfl⟩
theorem ret : Statement .ret := ⟨_, rfl, rfl⟩
theorem jp (nnn : Addr12) : Statement (.jp nnn) := ⟨_, rfl, addr_row _ _⟩
theorem call (nnn : Addr12) : Statement (.call nnn) := ⟨_, rfl, addr_row _ _⟩
theorem seVxKk (x : Ix) (kk : Byte) : Statement (.seVxKk x kk) := ⟨_, rfl, xkk_row _ _ _⟩
theorem sneVxKk (x : Ix) (kk : Byte) : Statement (.sneVxKk x kk) := ⟨_, rfl, xkk_row _ _ _⟩
theorem seVxVy (x y : Ix) : Statement (.seVxVy x y) := ⟨_, rfl, xy_row _ _ _ _⟩
theorem ldVxKk (x : Ix) (kk : Byte) : Statement (.ldVxKk x kk) := ⟨_, rfl, xkk_row _ _ _⟩
theorem addVxKk (x : Ix) (kk : Byte) : Statement (.addVxKk x kk) := ⟨_, rfl, xkk_row _ _ _⟩
theorem ldVxVy (x y : Ix) : Statement (.ldVxVy x y) := ⟨_, rfl, xy_row _ _ _ _⟩
theorem or (x y : Ix) : Statement (.or x y) := ⟨_, rfl, xy_row _ _ _ _⟩
theorem and (x y : Ix) : Statement (.and x y) := ⟨_, rfl, xy_row _ _ _ _⟩
theorem xor (x y : Ix) : Statement (.xor x y) := ⟨_, rfl, xy_row _ _ _ _⟩
theorem addVxVy (x y : Ix) : Statement (.addVxVy x y) := ⟨_, rfl, xy_row _ _ _ _⟩
theorem sub (x y : Ix) : Statement (.sub x y) := ⟨_, rfl, xy_row _ _ _ _⟩
theorem shr (x y : Ix) : Statement (.shr x y) := ⟨_, rfl, xy_row _ _ _ _⟩
theorem subn (x y : Ix) : Statement (.subn x y) := ⟨_, rfl, xy_row _ _ _ _⟩
theorem shl (x y : Ix) : Statement (.shl x y) := ⟨_, rfl, xy_row _ _ _ _⟩
theorem sneVxVy (x y : Ix) : Statement (.sneVxVy x y) := ⟨_, rfl, xy_row _ _ _ _⟩
theorem ldI (nnn : Addr12) : Statement (.ldI nnn) := ⟨_, rfl, addr_row _ _⟩
theorem jpV0 (nnn : Addr12) : Statement (.jpV0 nnn) := ⟨_, rfl, addr_row _ _⟩
theorem rnd (x : Ix) (kk : Byte) : Statement (.rnd x kk) := ⟨_, rfl, xkk_row _ _ _⟩
theorem drw (x y n : Ix) : Statement (.drw x y n) := ⟨_, rfl, xyn_row _ _ _ _⟩
theorem skp (x : Ix) : Statement (.skp x) := ⟨_, rfl, xs_row _ _ _⟩
theorem sknp (x : Ix) : Statement (.sknp x) := ⟨_, rfl, xs_row _ _ _⟩
theorem ldVxDt (x : Ix) : Statement (.ldVxDt x) := ⟨_, rfl, xs_row _ _ _⟩
theorem ldVxK (x : Ix) : Statement (.ldVxK x) := ⟨_, rfl, xs_row _ _ _⟩
theorem ldDtVx (x : Ix) : Statement (.ldDtVx x) := ⟨_, rfl, xs_row _ _ _⟩
theorem ldStVx (x : Ix) : Statement (.ldStVx x) := ⟨_, rfl, xs_row _ _ _⟩
theorem addIVx (x : Ix) : Statement (.addIVx x) := ⟨_, rfl, xs_row _ _ _⟩
theorem ldFVx (x : Ix) : Statement (.ldFVx x) := ⟨_, rfl, xs_row _ _ _⟩
theorem ldBVx (x : Ix) : Statement (.ldBVx x) := ⟨_, rfl, xs_row _ _ _⟩
theorem ldMemVx (x : Ix) : Statement (.ldMemVx x) := ⟨_, rfl, xs_row _ _ _⟩
theorem ldVxMem (x : Ix) : Statement (.ldVxMem x) := ⟨_, rfl, xs_row _ _ _⟩

end Laws.EncodesItsRow

end Sys2Proof
end

