-- ==== Sys2Proof/Tests/Slice0.lean ====
section
/-! SUPPORT. The model's own tests. Every expected value is from spec/95_test_vectors.md (the vector's name stands before the test)
or written out from the encodings of 30_encoding.md rule R85. The witnesses at the end meet the hypotheses of the statements. -/

namespace Sys2Proof.Tests

open Sys2Proof.Machine

/-! ## Decoding: words written out from rule R85 -/

theorem test_decode_family0 : decodeWord 0x00E0 = .ok .cls ∧ decodeWord 0x00EE = .ok .ret := by decide
theorem test_decode_jumps : decodeWord 0x1234 = .ok (.jp 0x234) ∧ decodeWord 0x2210 = .ok (.call 0x210) ∧
    decodeWord 0xB300 = .ok (.jpV0 0x300) ∧ decodeWord 0xA300 = .ok (.ldI 0x300) := by decide
theorem test_decode_skips : decodeWord 0x3342 = .ok (.seVxKk 3 0x42) ∧ decodeWord 0x4342 = .ok (.sneVxKk 3 0x42) ∧
    decodeWord 0x5120 = .ok (.seVxVy 1 2) ∧ decodeWord 0x9120 = .ok (.sneVxVy 1 2) := by decide
theorem test_decode_immediates : decodeWord 0x6A02 = .ok (.ldVxKk 10 0x02) ∧ decodeWord 0x7003 = .ok (.addVxKk 0 0x03) ∧
    decodeWord 0xC30F = .ok (.rnd 3 0x0F) := by decide
theorem test_decode_logic : decodeWord 0x8120 = .ok (.ldVxVy 1 2) ∧ decodeWord 0x8121 = .ok (.or 1 2) ∧
    decodeWord 0x8122 = .ok (.and 1 2) ∧ decodeWord 0x8123 = .ok (.xor 1 2) := by decide
theorem test_decode_flag_alu : decodeWord 0x8AB4 = .ok (.addVxVy 10 11) ∧ decodeWord 0x8125 = .ok (.sub 1 2) ∧
    decodeWord 0x83A6 = .ok (.shr 3 10) ∧ decodeWord 0x8127 = .ok (.subn 1 2) ∧ decodeWord 0x830E = .ok (.shl 3 0) := by decide
theorem test_decode_draw_and_keys : decodeWord 0xD125 = .ok (.drw 1 2 5) ∧ decodeWord 0xE19E = .ok (.skp 1) ∧
    decodeWord 0xE1A1 = .ok (.sknp 1) ∧ decodeWord 0xF50A = .ok (.ldVxK 5) := by decide
theorem test_decode_timers : decodeWord 0xF307 = .ok (.ldVxDt 3) ∧ decodeWord 0xF215 = .ok (.ldDtVx 2) ∧
    decodeWord 0xF218 = .ok (.ldStVx 2) := by decide
theorem test_decode_index : decodeWord 0xF01E = .ok (.addIVx 0) ∧ decodeWord 0xF029 = .ok (.ldFVx 0) ∧
    decodeWord 0xF033 = .ok (.ldBVx 0) ∧ decodeWord 0xF155 = .ok (.ldMemVx 1) ∧ decodeWord 0xF265 = .ok (.ldVxMem 2) := by decide

/-- High byte first (20_memory.md rule R52); the bytes after an instruction are left. -/
theorem test_decode_bytes : decode [0x6A, 0x02, 0x99] = .ok (.ldVxKk 10 0x02, [0x99]) ∧ decode [0x6A] = .error .truncated ∧
    decodeTableWord 16 0x6A02 = .some (.ldVxKk 10 0x02) ∧ decodeTableWord 16 0x5121 = .none := by decide

/-! ## Well-formedness: each check refuses an ill-formed term -/

theorem test_illformed_add : Instr.wellFormed (.addVxVy 15 1) = false ∧ Instr.wellFormed (.addVxVy 14 15) = true := by decide
theorem test_illformed_sub : Instr.wellFormed (.sub 15 0) = false ∧ Instr.wellFormed (.sub 14 15) = true := by decide
theorem test_illformed_shr : Instr.wellFormed (.shr 15 0) = false ∧ Instr.wellFormed (.shr 14 15) = true := by decide
theorem test_illformed_subn : Instr.wellFormed (.subn 15 0) = false ∧ Instr.wellFormed (.subn 14 15) = true := by decide
theorem test_illformed_shl : Instr.wellFormed (.shl 15 0) = false ∧ Instr.wellFormed (.shl 14 15) = true := by decide
/-- One word of each line of rule R88. -/
theorem test_undefined_words : wordDefined 0x0123 = false ∧ wordDefined 0x5121 = false ∧ wordDefined 0x8128 = false ∧
    wordDefined 0x9121 = false ∧ wordDefined 0xE19F = false ∧ wordDefined 0xF000 = false ∧ wordDefined 0x00E1 = false ∧
    wordDefined 0x00E0 = true := by decide
theorem test_undefined_words_refused : decodeWord 0x00E1 = .error (.unknownOpcode 0x00E1) ∧
    decodeWord 0x812F = .error (.unknownOpcode 0x812F) ∧ decodeWord 0xFF99 = .error (.unknownOpcode 0xFF99) := by decide
/-- S9: 3584 bytes fit, 3585 do not. -/
theorem test_image_too_large : imageFits (List.replicate 3585 0) = false ∧ imageFits (List.replicate 3584 0) = true := by
  unfold imageFits; simp only [List.length_replicate]; decide

/-! ## One step on a small state -/

/-- The state after the step that runs a word placed where it is fetched. -/
def after (s : State) (w : Nat) : State :=
  match step (s.withFetchWord 16 w) with
  | .next t => t
  | .fault _ => s
  | .refused _ => s

/-- What the step reported. -/
def cond (s : State) : Option Condition := s.result.map (·.cond)

/-- Registers set in order on the reset state. -/
def regs (l : List (Ix × Byte)) : State := l.foldl (fun s p => s.setV p.1 p.2) State.reset

/-- `withFetchWord` leaves reset alone but for the two bytes at 0x200. -/
theorem test_withFetchWord : (State.reset.withFetchWord 16 0x6A02).mem = [(0x200, 0x6A), (0x201, 0x02)] ∧
    (State.reset.withFetchWord 16 0x6A02).PC = 0x200 := by decide
/-- E1. -/
theorem test_unknown_zero : let t := step State.reset
    t = .next { State.reset with PC := 0x202, result := .some ⟨.unknownOpcode 0, false⟩ } := by rfl
/-- E11: the last word of memory. -/
theorem test_step_last_word : let t := after (State.reset.setPC 0xFFE) 0x6011
    t.getV 0 = 0x11 ∧ t.PC = 0x1000 ∧ cond t = .some .none := by decide
/-- E14: an odd PC is allowed. -/
theorem test_step_odd_pc : let t := after (State.reset.setPC 0x201) 0x60AB
    t.getV 0 = 0xAB ∧ t.PC = 0x203 := by decide
/-- P3: the halt check precedes the key check. -/
theorem test_halted_step : let s := (State.reset.setRun (.halt .memoryOutOfRange)).setKey 0 1
    step s = .next { s with result := .some ⟨.halted .memoryOutOfRange, false⟩ } := by rfl

/-! ### Display -/

/-- D1. -/
theorem test_cls : let t := after (State.reset.setFb (Framebuffer.put State.reset.fb 3 7 true)) 0x00E0
    t.fb = State.reset.fb ∧ t.drawFlag = true ∧ t.PC = 0x202 := by decide
/-- D5: the sprite wraps over both edges. -/
theorem test_drw_wraps : let t := after (regs [(0, 62), (1, 31)]) 0xD012
    (∀ c : Fin 64, t.pixel 31 c = true ↔ c = 62 ∨ c = 63 ∨ c = 0 ∨ c = 1) ∧ (∀ c : Fin 64, t.pixel 0 c = true ↔ c = 62 ∨ c = 1) ∧
    t.getV 15 = 0 ∧ t.drawFlag = true := by decide
/-- D3: the glyph of D2 drawn again clears it, with the collision in VF. -/
theorem test_drw_collides : let t := after ((after State.reset 0xD015).setPC 0x200) 0xD015
    t.fb = State.reset.fb ∧ t.getV 15 = 1 ∧ t.drawFlag = true ∧ t.PC = 0x202 := by decide

/-! ### Control transfer -/

/-- C5: the entry is kept. -/
theorem test_ret : let t := after (((State.reset.setSP (.some 0)).setStack 0 0x206).setPC 0x310) 0x00EE
    t.PC = 0x206 ∧ t.SP = .none ∧ t.getStack 0 = 0x206 ∧ cond t = .some .none := by decide
/-- C6. -/
theorem test_ret_underflow : let t := after State.reset 0x00EE
    t.run = .halt .stackUnderflow ∧ t.PC = 0x200 ∧ cond t = .some (.fatal .stackUnderflow) := by decide
/-- C1. -/
theorem test_jp : (after State.reset 0x1234).PC = 0x234 := by decide
/-- C8: the return address may be 0x1000. -/
theorem test_call : let t := after (State.reset.setPC 0xFFE) 0x2300
    t.SP = .some 0 ∧ t.getStack 0 = 0x1000 ∧ t.PC = 0x300 := by decide
/-- C7. -/
theorem test_call_overflow : let t := after (State.reset.setSP (.some 15)) 0x2300
    t.run = .halt .stackOverflow ∧ t.PC = 0x200 ∧ t.SP = .some 15 ∧ t.stack = State.reset.stack := by decide
/-- C11 and C12: V0 is added, never V[x], and the sum is not masked. -/
theorem test_jpV0 : (after (regs [(0, 0xFF)]) 0xBFFF).PC = 0x10FE ∧ (after (regs [(0, 1), (10, 0x77)]) 0xBA00).PC = 0xA01 := by
  decide

/-! ### Skips -/

/-- K1 and K2. -/
theorem test_seVxKk : (after (regs [(3, 0x42)]) 0x3342).PC = 0x204 ∧ (after (regs [(3, 0x41)]) 0x3342).PC = 0x202 := by decide
/-- K3 and K4. -/
theorem test_sneVxKk : (after (regs [(3, 0x41)]) 0x4342).PC = 0x204 ∧ (after (regs [(3, 0x42)]) 0x4342).PC = 0x202 := by decide
/-- K5 and K6. -/
theorem test_seVxVy : (after (regs [(1, 7), (2, 7)]) 0x5120).PC = 0x204 ∧ (after (regs [(1, 7), (2, 8)]) 0x5120).PC = 0x202 := by
  decide
/-- K7 and K8. -/
theorem test_sneVxVy : (after (regs [(1, 7), (2, 8)]) 0x9120).PC = 0x204 ∧ (after (regs [(1, 7), (2, 7)]) 0x9120).PC = 0x202 := by
  decide
/-- K12: a skip at the end of memory. -/
theorem test_skip_past_memory : (after (State.reset.setPC 0xFFE) 0x3000).PC = 0x1002 := by decide

/-! ### ALU -/

/-- A2. -/
theorem test_ldVxKk_vf : (after State.reset 0x6FAB).getV 15 = 0xAB := by decide
/-- A3: no carry flag. -/
theorem test_addVxKk : let t := after (regs [(0, 0xFE), (15, 7)]) 0x7003
    t.getV 0 = 0x01 ∧ t.getV 15 = 7 := by decide
/-- A6. -/
theorem test_ldVxVy : (after (regs [(2, 0x5A)]) 0x8120).getV 1 = 0x5A := by decide
/-- A7: VF is not reset. -/
theorem test_or : let t := after (regs [(1, 0xF0), (2, 0x0F), (15, 1)]) 0x8121
    t.getV 1 = 0xFF ∧ t.getV 15 = 1 := by decide
/-- A8. -/
theorem test_and : let t := after (regs [(1, 0xF0), (2, 0x3C), (15, 1)]) 0x8122
    t.getV 1 = 0x30 ∧ t.getV 15 = 1 := by decide
/-- A9 and A38. -/
theorem test_xor : (after (regs [(1, 0x5A)]) 0x8113).getV 1 = 0 ∧ (after (regs [(15, 0x0F), (1, 0xF0)]) 0x8F13).getV 15 = 0xFF := by
  decide
/-- A13 and A15: the operand VF is its old value. -/
theorem test_addVxVy : let t := after (regs [(1, 0xFF), (2, 0xFF)]) 0x8124
    let u := after (regs [(1, 0x10), (15, 5)]) 0x81F4
    t.getV 1 = 0xFE ∧ t.getV 15 = 1 ∧ u.getV 1 = 0x15 ∧ u.getV 15 = 0 := by decide
/-- A32. -/
theorem test_addVxVy_rejected : let t := after (regs [(15, 7), (1, 1)]) 0x8F14
    t.getV 15 = 7 ∧ t.PC = 0x202 ∧ cond t = .some (.invalidOperandIndex 0x8F14) ∧ t.run = .run := by decide
/-- A17 and A18: the comparison is strict. -/
theorem test_sub : let t := after (regs [(1, 5), (2, 5), (15, 1)]) 0x8125
    let u := after (regs [(2, 1), (15, 1)]) 0x8125
    t.getV 1 = 0 ∧ t.getV 15 = 0 ∧ u.getV 1 = 0xFF ∧ u.getV 15 = 0 := by decide
/-- A16. -/
theorem test_sub_no_borrow : let t := after (regs [(1, 5), (2, 4)]) 0x8125
    t.getV 1 = 1 ∧ t.getV 15 = 1 := by decide
/-- A28 and A26: y is ignored. -/
theorem test_shr : let t := after (regs [(3, 4), (10, 0xFF)]) 0x83A6
    let u := after (regs [(3, 1)]) 0x8306
    t.getV 3 = 2 ∧ t.getV 15 = 0 ∧ u.getV 3 = 0 ∧ u.getV 15 = 1 := by decide
/-- A20 and A23. -/
theorem test_subn : let t := after (regs [(1, 3), (2, 10)]) 0x8127
    let u := after (regs [(1, 1), (15, 5)]) 0x81F7
    t.getV 1 = 7 ∧ t.getV 15 = 1 ∧ u.getV 1 = 4 ∧ u.getV 15 = 1 := by decide
/-- A29 and A31. -/
theorem test_shl : let t := after (regs [(3, 0x81)]) 0x830E
    let u := after (regs [(3, 0x7F), (15, 1)]) 0x830E
    t.getV 3 = 2 ∧ t.getV 15 = 1 ∧ u.getV 3 = 0xFE ∧ u.getV 15 = 0 := by decide
/-- A40: kk = 0 gives 0 whatever the random byte. -/
theorem test_rnd_zero : ∃ t, exec (.rnd 3 0x00) (regs [(3, 0x55)]) = .next t ∧ t.getV 3 = 0x00 := ⟨_, rfl, by simp⟩
/-- A39 and A41, for every random byte: kk = FF gives it whole, kk = 0F its low four bits. -/
theorem test_rnd_mask : ∃ t u, exec (.rnd 3 0xFF) State.reset = .next t ∧ exec (.rnd 3 0x0F) State.reset = .next u ∧
    t.getV 3 = Config.rnd 0 ∧ u.getV 3 = Config.rnd 0 &&& 0x0F :=
  ⟨_, _, rfl, rfl, by
    have h : Config.rnd 0 &&& 255#8 = Config.rnd 0 := BitVec.and_allOnes
    simpa [State.nextRnd, State.reset] using h, by simp [State.nextRnd, State.reset]⟩

/-! ### Index register and memory -/

/-- M1. -/
theorem test_ldI : (after State.reset 0xA300).I = 0x300 := by decide
/-- M4 and M5: 16 bits, no flag. -/
theorem test_addIVx : let t := after ((regs [(0, 1)]).setI 0xFFF) 0xF01E
    let u := after ((regs [(0, 2)]).setI 0xFFFF) 0xF01E
    t.I = 0x1000 ∧ u.I = 0x0001 ∧ u.getV 15 = 0 := by decide
/-- M7 and M9: the full byte. -/
theorem test_ldFVx : (after (regs [(0, 0x0F)]) 0xF029).I = 0x04B ∧ (after (regs [(0, 0xFF)]) 0xF029).I = 0x4FB := by decide
/-- M10. -/
theorem test_ldBVx : let t := after ((regs [(0, 0xFE)]).setI 0x300) 0xF033
    t.readMem 0x300 = 2 ∧ t.readMem 0x301 = 5 ∧ t.readMem 0x302 = 4 ∧ t.I = 0x300 := by decide
/-- M14 and M15. -/
theorem test_ldBVx_checks : let t := after ((regs [(0, 0xFE)]).setI 0xFFE) 0xF033
    let u := after ((regs [(0, 0xFE)]).setI 0x1FF) 0xF033
    cond t = .some (.fatal (.memoryOutOfRange 0x1000)) ∧ t.readMem 0xFFE = 0 ∧
    cond u = .some (.fatal (.protectedWrite 0x1FF)) ∧ u.run = .halt .protectedWrite := by decide
/-- M16. -/
theorem test_ldMemVx : let t := after ((regs [(0, 7), (1, 1)]).setI 0x307) 0xF155
    t.readMem 0x307 = 7 ∧ t.readMem 0x308 = 1 ∧ t.I = 0x307 := by decide
/-- P1 and P1b. -/
theorem test_ldMemVx_checks : let t := after (State.reset.setI 0x1F8) 0xFF55
    let u := after (State.reset.setI 0xFF8) 0xFF55
    cond t = .some (.fatal (.protectedWrite 0x1F8)) ∧ cond u = .some (.fatal (.memoryOutOfRange 0x1000)) := by decide
/-- M22: the font may be read. -/
theorem test_ldVxMem : let t := after State.reset 0xF465
    t.getV 0 = 0xF0 ∧ t.getV 1 = 0x90 ∧ t.getV 2 = 0x90 ∧ t.getV 3 = 0x90 ∧ t.getV 4 = 0xF0 := by decide
/-- M24. -/
theorem test_ldVxMem_check : let t := after ((regs [(0, 9)]).setI 0xFFF) 0xF165
    cond t = .some (.fatal (.memoryOutOfRange 0x1000)) ∧ t.getV 0 = 9 ∧ t.PC = 0x200 := by decide

/-! ### Keys and timers -/

/-- T1 and T2. -/
theorem test_skp : (after ((regs [(1, 5)]).setKey 5 1) 0xE19E).PC = 0x204 ∧ (after (regs [(1, 5)]) 0xE19E).PC = 0x202 := by decide
/-- T5. -/
theorem test_skp_no_key : let t := after (regs [(1, 0x10)]) 0xE19E
    cond t = .some (.fatal (.keyOutOfRange 0x10)) ∧ t.PC = 0x200 := by decide
/-- T3 and T4: any nonzero state is pressed. -/
theorem test_sknp : (after (regs [(1, 5)]) 0xE1A1).PC = 0x204 ∧ (after ((regs [(1, 5)]).setKey 5 0xFF) 0xE1A1).PC = 0x202 := by
  decide
/-- T7. -/
theorem test_ldVxDt : (after (State.reset.setDT 0x3C) 0xF307).getV 3 = 0x3C := by decide
/-- T10. -/
theorem test_ldVxK_waits : let t := after (State.reset.setPC 0x210) 0xF50A
    t.run = .waitKey 5 ∧ t.PC = 0x210 ∧ cond t = .some (.waitingForKey 5) := by decide
/-- T13. -/
theorem test_ldVxK_pressed : let t := after (State.reset.setKey 2 1) 0xF50A
    t.getV 5 = 2 ∧ t.PC = 0x202 ∧ cond t = .some .none := by decide
/-- T12: the least key ends the wait past the Fx0A. -/
theorem test_wait_ends : let t := waitStep 5 ((((State.reset.setPC 0x210).setRun (.waitKey 5)).setKey 9 1).setKey 12 1)
    t.getV 5 = 9 ∧ t.run = .run ∧ t.PC = 0x212 := by decide
/-- T8. -/
theorem test_ldDtVx : (after (regs [(2, 0x3C)]) 0xF215).DT = 0x3C := by decide
/-- T9. -/
theorem test_ldStVx : (after (regs [(2, 0x08)]) 0xF218).ST = 0x08 := by decide

/-! ### Host operations -/

/-- S8 and T15. -/
theorem test_tick : let s := (State.reset.setDT 2).setRun (.waitKey 1)
    s.hostTick.DT = 1 ∧ s.hostTick.ST = 0 ∧ s.hostTick.hostTick.hostTick.DT = 0 ∧ s.hostTick.run = .waitKey 1 := by decide
/-- S6: the bytes of the program land at 0x200; PC is not touched. -/
theorem test_load : ∃ t, State.reset.hostLoad [0x6A, 0x02] = .next (t, .ok) ∧ t.readMem 0x200 = 0x6A ∧ t.readMem 0x201 = 0x02 ∧
    t.PC = 0x200 := ⟨_, rfl, by decide⟩
/-- S9. -/
theorem test_load_too_large : State.reset.hostLoad (List.replicate 3585 1) = .next (State.reset, .programTooLarge) := by
  unfold State.hostLoad; rw [if_pos (by decide), List.length_replicate, if_pos (by decide)]
/-- 60_exceptions.md rule R225: no load after the first step. -/
theorem test_late_load : (after State.reset 0x6A02).hostLoad [0] = .refused .lateLoad := by rfl

/-! ## Witnesses: for each statement with hypotheses, states and operands that meet them, at the ends of each range -/

/-- A state in RUN about to fetch a word at 0xFFE, the last place one fits. -/
def atEnd (hi lo : Byte) : State := (State.reset.setPC 0xFFE).poke 0xFFE [hi, lo]

theorem witness_EncodeOfDecodeIsIdentity : decodeWord 0x8FF6 = .ok (.shr 15 15) ∧ decodeWord 0x00EE = .ok .ret := by decide
theorem witness_DecoderAcceptsExactlyTheTable : wordDefined 0x1000 = true ∧ wordDefined 0x0FFF = false ∧ wordDefined 0xFFFF = false := by
  decide
theorem witness_OpcodeRowsAreDisjoint : (⟨"5xy0", 0x5000, 0xF00F⟩ : OpcodeRow) ∈ opcodeTable ∧
    (⟨"5xy0", 0x5000, 0xF00F⟩ : OpcodeRow).selects 0x5FF0 = true := by decide
theorem witness_StepRunsTheDecodedInstruction : let s := atEnd 0x60 0x11
    s.run = .run ∧ s.PC.toNat + 1 < 0x1000 ∧
      decode [s.readMem s.PC.toNat, s.readMem (s.PC.toNat + 1)] = .ok (.ldVxKk 0 0x11, []) := by decide
theorem witness_FetchReadsTheWordAtPC : (State.reset.setPC 0xFFE).PC.toNat + 1 < 0x1000 ∧ 0x1000 ≤ (State.reset.setPC 0x1000).PC.toNat ∧
    (State.reset.setPC 0xFFF).PC.toNat = 0xFFF := by decide
theorem witness_FetchOutOfRangeHalts : let s := State.reset.setPC 0xFFF
    let u := State.reset.setPC 0x1000
    s.run = .run ∧ 0xFFF ≤ s.PC.toNat ∧ u.run = .run ∧ 0xFFF ≤ u.PC.toNat := by decide
theorem witness_UnknownOpcodeIsANoOp : let s := atEnd 0x51 0x21
    s.run = .run ∧ fetch s = .ok 0x5121 ∧ wordDefined 0x5121 = false := ⟨rfl, rfl, by decide⟩
theorem witness_InvalidOperandIndex_rejected : Instr.wellFormed (.sub 15 15) = false := by decide
theorem witness_InvalidOperandIndex_executes : Instr.wellFormed (.sub 14 15) = true ∧ ∃ t, exec (.sub 14 15) State.reset = .next t :=
  ⟨by decide, _, rfl⟩
theorem witness_HaltedStepChangesNothing : (State.reset.setRun (.halt .keyOutOfRange)).run = .halt .keyOutOfRange := rfl
theorem witness_WaitStep_key : let s := ((State.reset.setRun (.waitKey 15)).setKey 14 1).setKey 15 1
    s.run = .waitKey 15 ∧ s.getKey 14 ≠ 0 ∧ ∀ j < (14 : Ix), s.getKey j = 0 := by decide
theorem witness_WaitStep_noKey : let s := State.reset.setRun (.waitKey 0)
    s.run = .waitKey 0 ∧ ∀ k : Ix, s.getKey k = 0 := by decide
theorem witness_NetEffectOnPC : State.reset.run = .run ∧ (∃ w, fetch State.reset = .ok w) ∧ ¬ ∃ w, fetch (State.reset.setPC 0xFFF) = .ok w :=
  ⟨rfl, ⟨_, rfl⟩, by rintro ⟨w, h⟩; cases h⟩
theorem witness_FatalConditionsArePreciseAndPermanent : let s := State.reset.setPC 0xFFF
    s.live ∧ ∃ t, step s = .next t ∧ t.run = .halt .memoryOutOfRange :=
  ⟨by intro c; cases c <;> decide, _, rfl, rfl⟩
theorem witness_EveryInstructionKeepsItsFrame : ∃ t, exec (.call 0x300) State.reset = .next t ∧ t.SP = .some 0 := ⟨_, rfl, rfl⟩

theorem witness_Draw_runs : let s := State.reset.setI 0xFF1
    (15 : Ix).val ≠ 0 ∧ s.I.toNat + (15 : Ix).val ≤ 0x1000 := by decide
theorem witness_Draw_empty : let s := State.reset.setI 0xFFFF
    ((0 : Ix).val = 0 ∨ s.I.toNat + (0 : Ix).val ≤ 0x1000) ∧ ∃ t, exec (.drw 0 0 0) s = .next t ∧ t.run = .run :=
  ⟨.inl rfl, _, rfl, rfl⟩
theorem witness_Draw_halts : let s := State.reset.setI 0xFFF
    (2 : Ix).val ≠ 0 ∧ 0x1000 < s.I.toNat + (2 : Ix).val := by decide
theorem witness_Draw_halts_above : let s := State.reset.setI 0x1000
    (1 : Ix).val ≠ 0 ∧ 0x1000 < s.I.toNat + (1 : Ix).val := by decide
/-- The draw of vector D3 turns pixels off, and that of D2 turns none off. -/
theorem witness_Draw_collision : (∃ t, exec (.drw 0 1 5) (after State.reset 0xD015) = .next t ∧
      (after State.reset 0xD015).pixel 0 0 = true ∧ t.pixel 0 0 = false) ∧
    ∃ t, exec (.drw 0 1 5) State.reset = .next t ∧ ¬ ∃ row col, State.reset.pixel row col = true ∧ t.pixel row col = false :=
  ⟨⟨_, rfl, by decide⟩, _, rfl, by
    rintro ⟨row, col, h, _⟩
    simp [State.pixel, Framebuffer.get, State.reset] at h⟩
theorem witness_EmptySpriteDrawsNothing : let s := State.reset.setI 0xFFB
    s.I.toNat + (5 : Ix).val ≤ 0x1000 ∧ ∀ r < (5 : Ix).val, s.readMem (s.I.toNat + r) = 0 := by decide

theorem witness_ReturnPopsTheStack : (State.reset.setSP (.some 0)).SP = .some 0 ∧ (State.reset.setSP (.some 15)).SP = .some 15 ∧
    spNumber State.reset.SP = -1 := by decide
theorem witness_CallPushesTheNextAddress : spNumber State.reset.SP ≠ 15 ∧ spNumber (State.reset.setSP (.some 14)).SP ≠ 15 ∧
    spNumber (State.reset.setSP (.some 15)).SP = 15 := by decide
theorem witness_CallThenReturnComesBack : let s := State.reset.setSP (.some 14)
    stackDepth s.SP < 16 ∧ ∃ t u : State, exec (.call 0x300) s = .next t ∧ u.SP = t.SP ∧ u.stack = t.stack :=
  ⟨by decide, _, _, rfl, rfl, rfl⟩
theorem witness_CompareSkips : let s := regs [(15, 0xFF)]
    s.getV 15 = 0xFF ∧ s.getV 15 ≠ 0xFE ∧ s.getV 15 = s.getV 15 ∧ s.getV 15 ≠ s.getV 0 := by decide
theorem witness_CompareSkips_lowNibble : (1 : BitVec 4) ≠ 0 ∧ (15 : BitVec 4) ≠ 0 := by decide
theorem witness_KeySkips : (regs [(1, 15)]).getV 1 = BitVec.ofNat 8 (15 : Ix).val ∧ ((regs [(1, 15)]).getV 1).toNat = (15 : Ix).val ∧
    ((regs [(1, 15)]).setKey 15 1).getKey 15 ≠ 0 ∧ (regs [(1, 15)]).getKey 15 = 0 ∧ 0xF < ((regs [(1, 16)]).getV 1).toNat := by decide
/-- The five flag instructions: x = 14 executes, x = 15 is rejected. -/
theorem witness_WritesFlagReg : (14 : Ix) ≠ 15 ∧ (15 : Ix) = 15 ∧ (∃ t, exec (.addVxVy 14 15) State.reset = .next t ∧ t.result =
    .some ⟨.none, t.drawFlag⟩) ∧ ∃ t, exec (.shl 15 0) State.reset = .next t ∧ t.result = .some ⟨.invalidOperandIndex 0x8F0E, t.drawFlag⟩ :=
  ⟨by decide, rfl, ⟨_, rfl, rfl⟩, _, rfl, rfl⟩
theorem witness_FlagIsExactlyZeroOrOne : ∃ t, exec (.sub 14 15) State.reset = .next t ∧ t.result = .some ⟨.none, t.drawFlag⟩ :=
  ⟨_, rfl, rfl⟩
theorem witness_RandomByteMasked : (0xFF : Byte) = 0xFF ∧ (0 : Byte) = 0 ∧ ∃ t, exec (.rnd 15 0x01) State.reset = .next t ∧ t.draws = 1 :=
  ⟨rfl, rfl, _, rfl, rfl⟩
theorem witness_Stores_all : Memory.wf State.reset.mem = true ∧ 0x200 ≤ (State.reset.setI 0x200).I.toNat ∧
    (State.reset.setI 0xFFD).I.toNat + 3 ≤ 0x1000 ∧ (State.reset.setI 0xFF0).I.toNat + ((15 : Ix).val + 1) ≤ 0x1000 := by decide
theorem witness_Stores_outOfRange : 0x1000 < (State.reset.setI 0xFFE).I.toNat + 3 ∧
    0x1000 < (State.reset.setI 0x1000).I.toNat + ((0 : Ix).val + 1) := by decide
theorem witness_Stores_protected : (State.reset.setI 0x1FF).I.toNat < 0x200 ∧ Memory.wf (State.reset.setI 0x1FF).mem = true := by decide
theorem witness_LoadRegisters : (State.reset.setI 0xFFF).I.toNat + (0 : Ix).val < 0x1000 ∧
    (State.reset.setI 0xFF0).I.toNat + (15 : Ix).val < 0x1000 ∧ 0x1000 ≤ (State.reset.setI 0xFFF).I.toNat + (1 : Ix).val := by decide
theorem witness_StoreThenLoadRestoresRegisters : let s := (regs [(0, 7), (1, 9)]).setI 0x200
    Memory.wf s.mem = true ∧ ∃ t, exec (.ldMemVx 1) s = .next t ∧ t.result = .some ⟨.none, t.drawFlag⟩ ∧
      ((t.setV 0 0).mem = t.mem ∧ (t.setV 0 0).I = t.I) := ⟨by decide, _, rfl, rfl, rfl, rfl⟩
theorem witness_CanonicalMemoriesAreEqual : let m : Memory := Memory.write (Memory.write [] 0x300 1) 0x200 2
    let m' : Memory := Memory.write (Memory.write (Memory.write [] 0x200 2) 0x301 5) 0x300 1
    Memory.wf m = true ∧ Memory.wf m' = true ∧ ∀ a, Memory.read m a = Memory.read (Memory.write m' 0x301 0) a :=
  ⟨by decide, by decide, fun _ => rfl⟩
theorem witness_KeyLoadOrWait : let s := (State.reset.setKey 14 1).setKey 15 1
    (s.getKey 14 ≠ 0 ∧ ∀ j < (14 : Ix), s.getKey j = 0) ∧ ∀ k : Ix, State.reset.getKey k = 0 := by decide

/-- A block waiting at an Fx0A, after a step. -/
def waiting : State := after State.reset 0xF50A

theorem witness_waiting : waiting.run = .waitKey 5 ∧ waiting.PC = 0x200 := by decide
theorem witness_MemInv (s : State) (h : s.mem = []) : s.MemInv := by
  refine ⟨by rw [h]; rfl, by rw [h]; rfl, fun a _ => ?_⟩
  rw [State.readMem, h]; rfl
theorem witness_StepKeepsMemory : State.reset.MemInv ∧ ∃ t, step State.reset = .next t := ⟨witness_MemInv _ rfl, _, rfl⟩
theorem witness_StepKeepsAddressBounds : let s := State.reset.setPC 0x10FE
    s.AddrInv ∧ ∃ t, step s = .next t := ⟨⟨by decide, by decide, by intro x h; cases h⟩, _, rfl⟩
theorem witness_StepKeepsTheWaitAtItsInstruction : waiting.WaitInv ∧ waiting.run = .waitKey 5 ∧ ∃ t, step waiting = .next t := by
  refine ⟨fun x h => ⟨by decide, 0xF50A, by rfl, ?_⟩, by decide, _, rfl⟩
  have h5 : waiting.run = .waitKey 5 := by decide
  rw [h5] at h; injection h with h; subst h; decide
theorem witness_HostOperationsKeepTheInvariant : State.reset.Inv ∧ ∃ t, runEvent (.load [0xF5, 0x0A]) State.reset = .next t :=
  ⟨⟨witness_MemInv _ rfl, ⟨by decide, by decide, by intro x h; cases h⟩, by intro x h; cases h⟩, _, rfl⟩
theorem witness_NoWriteBelowTheProgramBase : ∃ t, runEvent .step (((State.reset.poke 0x200 [0xF0, 0x33]).setI 0x200)) = .next t ∧
    t.readMem 0x201 = 0 := ⟨_, rfl, by decide⟩
theorem witness_HaltIsLeftOnlyByReset : (State.reset.setRun (.halt .stackOverflow)).run = .halt .stackOverflow ∧ State.reset.live ∧
    ∃ t, runEvent .tick (State.reset.setRun (.halt .stackOverflow)) = .next t := ⟨rfl, by intro c; cases c <;> decide, _, rfl⟩
theorem witness_NoStepDecrementsATimer : ∃ t, step (((regs [(2, 9)]).setDT 5).poke 0x200 [0xF2, 0x15]) = .next t ∧ t.DT = 9 :=
  ⟨_, rfl, by decide⟩
theorem witness_OnlyDisplayInstructionsDraw : ∃ t, step (State.reset.poke 0x200 [0x00, 0xE0]) = .next t ∧
    t.result = .some ⟨.none, t.drawFlag⟩ ∧ t.drawFlag = true := ⟨_, rfl, rfl, rfl⟩
theorem witness_SoundTimerIsReadByNothing : ∃ t, step (State.reset.setST 7) = .next t ∧ t.ST = 7 := ⟨_, rfl, rfl⟩
theorem witness_StaleStackEntriesAreReadByNothing : let s := (State.reset.setSP (.some 0)).poke 0x200 [0x23, 0x00]
    stackDepth s.SP ≤ (1 : Ix).val ∧ ∃ t, step s = .next t ∧ t.SP = .some 1 := ⟨by decide, _, rfl, by decide⟩
theorem witness_LoadCopiesTheImage : State.reset.result = .none ∧ State.reset.loaded = false ∧ Memory.wf State.reset.mem = true ∧
    (List.replicate 3584 (1 : Byte)).length ≤ 3584 ∧ 3584 < (List.replicate 3585 (1 : Byte)).length ∧ waiting.result ≠ .none := by
  refine ⟨rfl, rfl, rfl, ?_, ?_, by decide⟩ <;> simp only [List.length_replicate] <;> decide
theorem witness_SecondLoad : ∃ t, State.reset.hostLoad [1] = .next (t, .ok) ∧ t.result = .none ∧ t.loaded = true := ⟨_, rfl, rfl, rfl⟩
theorem witness_UnloadedBlockWalksToTheEndOfMemory : 0 < 1 ∧ 1 ≤ 1792 ∧ 0 < 1792 ∧ 1792 ≤ 1792 := by decide

end Sys2Proof.Tests
end

/-! # Family 10, the state: what a step changes and what it leaves alone -/

namespace Sys2Proof.Machine

/-! ## The frame calculus: a write inside a footprint keeps everything outside it (00_scope.md rule R13) -/

/-- Two descriptions of one outcome: what holds of the next state it has holds of every next state it is equal to. -/
theorem next_of_exists {o : Host.Outcome State Fault Refusal} {P : State → Prop} {t : State}
    (hP : ∃ u, o = .next u ∧ P u) (ht : o = .next t) : P t := by
  obtain ⟨u, hu, hPu⟩ := hP
  cases hu.symm.trans ht
  exact hPu

namespace Unchanged

theorem refl (f : Footprint) (s : State) : Unchanged f s s :=
  ⟨fun _ _ => rfl, fun _ => rfl, fun _ => rfl, fun _ _ => rfl, fun _ => rfl, fun _ => rfl, fun _ => rfl, fun _ => rfl,
    fun _ _ _ => rfl, fun _ => rfl, fun _ _ => rfl, fun _ => rfl, rfl⟩

section
variable {f : Footprint} {s t : State}

theorem report (c : Condition) (h : Unchanged f s t) : Unchanged f s (t.report c) := { h with }

theorem setPC (a : Word) (h : Unchanged f s t) : Unchanged f s (t.setPC a) := { h with }

theorem complete (h : Unchanged f s t) : Unchanged f s t.complete := (h.setPC _).report _

theorem redirect (a : Word) (h : Unchanged f s t) : Unchanged f s (t.redirect a) := (h.setPC _).report _

theorem rejectOperand (i : Instr) (h : Unchanged f s t) : Unchanged f s (t.rejectOperand i) := (h.setPC _).report _

theorem skipIf (taken : Bool) (h : Unchanged f s t) : Unchanged f s (t.skipIf taken) := by
  cases taken
  · exact h
  · exact h.setPC _

theorem setRun (r : RunState) (hf : f.run = true) (h : Unchanged f s t) : Unchanged f s (t.setRun r) :=
  { h with run := by simp [hf] }

theorem raiseFatal (e : Fatal) (hf : f.run = true) (h : Unchanged f s t) : Unchanged f s (t.raiseFatal e) :=
  (h.setRun _ hf).report _

theorem setV {x : Ix} (b : Byte) (hf : x ∈ f.regs) (h : Unchanged f s t) : Unchanged f s (t.setV x b) :=
  { h with
    regs := fun k hk => by
      have hkx : k ≠ x := fun e => hk (e ▸ hf)
      rw [State.getV_setV_other t b hkx, h.regs k hk] }

theorem loadRegs (m : Memory) (base : Nat) : ∀ (ks : List Ix) {t : State}, (∀ k ∈ ks, k ∈ f.regs) →
    Unchanged f s t → Unchanged f s (loadRegs m base ks t)
  | [], _, _, h => h
  | k :: ks, _, hf, h =>
    loadRegs m base ks (fun j hj => hf j (List.mem_cons_of_mem k hj)) (h.setV _ (hf k List.mem_cons_self))

theorem setI (a : Word) (hf : f.I = true) (h : Unchanged f s t) : Unchanged f s (t.setI a) :=
  { h with I := by simp [hf] }

theorem setSP (p : Option Ix) (hf : f.SP = true) (h : Unchanged f s t) : Unchanged f s (t.setSP p) :=
  { h with SP := by simp [hf] }

theorem setStack {j : Ix} (a : Word) (hf : j ∈ f.stack) (h : Unchanged f s t) : Unchanged f s (t.setStack j a) :=
  { h with
    stack := fun k hk => by
      have hkj : k ≠ j := fun e => hk (e ▸ hf)
      rw [State.getStack_setStack, if_neg hkj, h.stack k hk] }

theorem setDT (b : Byte) (hf : f.DT = true) (h : Unchanged f s t) : Unchanged f s (t.setDT b) :=
  { h with DT := by simp [hf] }

theorem setST (b : Byte) (hf : f.ST = true) (h : Unchanged f s t) : Unchanged f s (t.setST b) :=
  { h with ST := by simp [hf] }

theorem setDrawFlag (d : Bool) (hf : f.drawFlag = true) (h : Unchanged f s t) : Unchanged f s (t.setDrawFlag d) :=
  { h with drawFlag := by simp [hf] }

theorem setFb (fb : Framebuffer) (hf : f.fb = true) (h : Unchanged f s t) : Unchanged f s (t.setFb fb) :=
  { h with fb := by simp [hf] }

theorem drawRnd (hf : f.draws = true) (h : Unchanged f s t) : Unchanged f s t.drawRnd :=
  { h with draws := by simp [hf] }

theorem setMem {m : Memory} (hm : ∀ a, (a < f.base ∨ f.base + f.len ≤ a) → Memory.read m a = s.readMem a)
    (h : Unchanged f s t) : Unchanged f s (t.setMem m) :=
  { h with mem := hm }

end

end Unchanged

/-! ## Every instruction keeps its frame -/

/-- A flag-writing instruction writes at most its result register and VF. -/
theorem writeFlagV_frame {f : Footprint} (i : Instr) {x : Ix} (r : Byte × Bool) (s : State) (hx : x ∈ f.regs) (hvf : vf ∈ f.regs) :
    ∃ t, writeFlagV i x r s = .next t ∧ Unchanged f s t := by
  rcases writeFlagV_cases i x r s with ⟨_, h⟩ | ⟨_, h⟩
  · exact ⟨_, h, (((Unchanged.refl f s).setV _ hvf).setV _ hx).complete⟩
  · exact ⟨_, h, (Unchanged.refl f s).rejectOperand i⟩

/-- A store at I writes at most its own bytes, or halts. -/
theorem storeAtI_frame {f : Footprint} (bytes : List Byte) (s : State) (hrun : f.run = true) (hbase : f.base = s.base)
    (hlen : f.len = bytes.length) : ∃ t, storeAtI bytes s = .next t ∧ Unchanged f s t := by
  rcases storeAtI_cases bytes s with ⟨_, h⟩ | ⟨e, _, h⟩
  · refine ⟨_, h, ((Unchanged.refl f s).setMem fun a ha => ?_).complete⟩
    rw [hbase, hlen] at ha
    exact Memory.read_writeList_outside bytes ha
  · exact ⟨_, h, (Unchanged.refl f s).raiseFatal e hrun⟩

theorem skipOnKey_frame {f : Footprint} (x : Ix) (wanted : Bool) (s : State) (hrun : f.run = true) :
    ∃ t, skipOnKey x wanted s = .next t ∧ Unchanged f s t := by
  rcases skipOnKey_cases x wanted s with ⟨_, _, h⟩ | ⟨_, h⟩
  · exact ⟨_, h, ((Unchanged.refl f s).skipIf _).complete⟩
  · exact ⟨_, h, (Unchanged.refl f s).raiseFatal _ hrun⟩

/-- Each instruction answers a next state that agrees with the old one outside its footprint (rule R13). -/
theorem exec_frame (i : Instr) (s : State) : ∃ t, exec i s = .next t ∧ Unchanged (footprint i s) s t := by
  have keep := Unchanged.refl (footprint i s) s
  cases i with
  | cls => exact ⟨_, rfl, ((keep.setFb _ rfl).setDrawFlag _ rfl).complete⟩
  | ret =>
    rcases execRet_cases s with ⟨_, h⟩ | ⟨j, _, h⟩
    · exact ⟨_, h, keep.raiseFatal _ rfl⟩
    · exact ⟨_, h, (keep.setSP _ rfl).redirect _⟩
  | call nnn =>
    rcases execCall_cases nnn s with ⟨_, h⟩ | ⟨j, hj, h⟩
    · exact ⟨_, h, keep.raiseFatal _ rfl⟩
    · have hmem : j ∈ (footprint (.call nnn) s).stack := by simp [footprint, hj]
      exact ⟨_, h, ((keep.setSP _ rfl).setStack _ hmem).redirect _⟩
  | jp _ | jpV0 _ => exact ⟨_, rfl, keep.redirect _⟩
  | seVxKk _ _ | sneVxKk _ _ | seVxVy _ _ | sneVxVy _ _ => exact ⟨_, rfl, (keep.skipIf _).complete⟩
  | ldVxKk x _ | addVxKk x _ | ldVxVy x _ | or x _ | and x _ | xor x _ | ldVxDt x =>
    exact ⟨_, rfl, (keep.setV _ List.mem_cons_self).complete⟩
  | rnd x _ => exact ⟨_, rfl, ((keep.drawRnd rfl).setV _ List.mem_cons_self).complete⟩
  | addVxVy _ _ | sub _ _ | shr _ _ | subn _ _ | shl _ _ =>
    exact writeFlagV_frame _ _ s List.mem_cons_self (List.mem_cons_of_mem _ List.mem_cons_self)
  | ldI _ | addIVx _ | ldFVx _ => exact ⟨_, rfl, (keep.setI _ rfl).complete⟩
  | drw x y n =>
    rcases execDrw_cases x y n s with ⟨_, h⟩ | ⟨e, _, h⟩
    · exact ⟨_, h, (((keep.setFb _ rfl).setV _ List.mem_cons_self).setDrawFlag _ rfl).complete⟩
    · exact ⟨_, h, keep.raiseFatal e rfl⟩
  | skp x | sknp x => exact skipOnKey_frame x _ s rfl
  | ldVxK x =>
    rcases execLdVxK_cases x s with ⟨k, _, h⟩ | ⟨_, h⟩
    · exact ⟨_, h, (keep.setV _ List.mem_cons_self).complete⟩
    · exact ⟨_, h, (keep.setRun _ rfl).report _⟩
  | ldDtVx _ => exact ⟨_, rfl, (keep.setDT _ rfl).complete⟩
  | ldStVx _ => exact ⟨_, rfl, (keep.setST _ rfl).complete⟩
  | ldBVx x => exact storeAtI_frame _ s rfl rfl rfl
  | ldMemVx x => exact storeAtI_frame _ s rfl rfl (by simp [footprint, regsUpTo_length])
  | ldVxMem x =>
    rcases execLdVxMem_cases x s with ⟨_, h⟩ | ⟨e, _, h⟩
    · exact ⟨_, h, (keep.loadRegs _ _ _ fun _ hk => hk).complete⟩
    · exact ⟨_, h, keep.raiseFatal e rfl⟩

/-- Settles O15, by the frame calculus over the outcomes of each instruction. -/
theorem everyInstructionKeepsItsFrame : Obligations.EveryInstructionKeepsItsFrame :=
  fun i s _ h => next_of_exists (exec_frame i s) h

/-! ## tick (60_exceptions.md rule R221) -/

/-- A timer counts down by 1 and stops at 0 (rule R216): truncated subtraction. -/
theorem tickTimer_toNat (b : Byte) : (tickTimer b).toNat = b.toNat - 1 := by
  unfold tickTimer
  split
  · next h => exact BitVec.toNat_sub_of_le (y := 1#8) h
  · next h => omega

/-- Settles O56: tick writes the two timers and nothing else. -/
theorem tickCountsDownToZero : Obligations.TickCountsDownToZero := fun s =>
  ⟨s.hostTick, rfl, tickTimer_toNat s.DT, tickTimer_toNat s.ST, rfl, rfl,
    ((Unchanged.refl _ s).setDT _ rfl).setST _ rfl⟩

/-! ## The flag is 0 or 1 (10_state.md rule R23) -/

theorem flagByte_zero_or_one (b : Bool) : flagByte b = 0 ∨ flagByte b = 1 := by
  cases b
  · exact .inl rfl
  · exact .inr rfl

/-- When a flag-writing instruction completes, its result register is not VF, so VF holds the flag. -/
theorem writeFlagV_flag {i : Instr} {x : Ix} {r : Byte × Bool} {s t : State} (h : writeFlagV i x r s = .next t)
    (hc : t.result = .some ⟨.none, t.drawFlag⟩) : t.getV vf = flagByte r.2 := by
  rcases writeFlagV_cases i x r s with ⟨hx, h'⟩ | ⟨_, h'⟩
  · cases h'.symm.trans h
    simp [State.getV_setV_other _ _ hx.symm]
  · cases h'.symm.trans h
    simp at hc

/-- When Dxyn completes, VF holds the collision (40_display.md rule R112). -/
theorem execDrw_flag {x y n : Ix} {s t : State} (h : execDrw x y n s = .next t)
    (hc : t.result = .some ⟨.none, t.drawFlag⟩) : t.getV vf = flagByte (drawn x y n s).2 := by
  rcases execDrw_cases x y n s with ⟨_, h'⟩ | ⟨e, _, h'⟩
  · cases h'.symm.trans h
    simp
  · cases h'.symm.trans h
    simp at hc

/-- Settles O32: each of the six instructions leaves a `flagByte` in VF when it completes. -/
theorem flagIsExactlyZeroOrOne : Obligations.FlagIsExactlyZeroOrOne := by
  rintro x y n i s t (rfl | rfl | rfl | rfl | rfl | rfl) h hc
  case inr.inr.inr.inr.inr => exact execDrw_flag h hc ▸ flagByte_zero_or_one _
  all_goals exact writeFlagV_flag h hc ▸ flagByte_zero_or_one _

/-! ## Steps: an equation per case, and what a step without an instruction leaves alone (30_encoding.md rule R95) -/

theorem step_of_halt {s : State} {c : FatalCode} (h : s.run = .halt c) : step s = .next (haltedStep c s) := by
  simp [step, h]

theorem step_of_wait {s : State} {x : Ix} (h : s.run = .waitKey x) : step s = .next (waitStep x s) := by
  simp [step, h]

theorem step_of_fetch_error {s : State} {f : Fatal} (h : s.run = .run) (hf : fetch s = .error f) :
    step s = .next (s.raiseFatal f) := by
  simp [step, h, hf]

theorem step_of_decode_error {s : State} {w : Word} {e : DecodeError} (h : s.run = .run) (hf : fetch s = .ok w)
    (hd : decodeWord w = .error e) : step s = .next (unknownOpcode w s) := by
  simp [step, h, hf, hd]

theorem step_of_decode {s : State} {w : Word} {i : Instr} (h : s.run = .run) (hf : fetch s = .ok w)
    (hd : decodeWord w = .ok i) : step s = exec i s := by
  simp [step, h, hf, hd]

/-- A waiting step ends the wait with the least pressed key, or only reports (45_keys_timers.md rule R194). -/
theorem waitStep_cases (x : Ix) (s : State) :
    (∃ k, s.leastPressed = .some k ∧ waitStep x s = ((s.setV x (keyCode k)).setRun .run).complete) ∨
    (s.leastPressed = .none ∧ waitStep x s = s.report (.waitingForKey x)) := by
  unfold waitStep
  split
  · next k h => exact .inl ⟨k, h, rfl⟩
  · next h => exact .inr ⟨h, rfl⟩

theorem waitStep_frame {f : Footprint} {x : Ix} (s : State) (hx : x ∈ f.regs) (hrun : f.run = true) :
    Unchanged f s (waitStep x s) := by
  rcases waitStep_cases x s with ⟨k, _, h⟩ | ⟨_, h⟩
  · exact h ▸ (((Unchanged.refl f s).setV _ hx).setRun _ hrun).complete
  · exact h ▸ (Unchanged.refl f s).report _

/-- A step executes the instruction it fetched, or changes at most registers and the run state. -/
theorem step_executes_or_frame {s t : State} (h : step s = .next t) :
    (∃ w i, s.run = .run ∧ fetch s = .ok w ∧ decodeWord w = .ok i ∧ exec i s = .next t) ∨
    Unchanged { regs := allIx, run := true } s t := by
  have keep := Unchanged.refl { regs := allIx, run := true } s
  rcases step_cases s with ⟨c, _, h'⟩ | ⟨x, _, h'⟩ | ⟨_, f, _, h'⟩ | ⟨_, w, _, _, _, h'⟩ | ⟨hrun, w, i, hf, hd, h'⟩
  case inr.inr.inr.inr => exact .inl ⟨w, i, hrun, hf, hd, h'.symm.trans h⟩
  all_goals
    cases h'.symm.trans h
    right
  · exact keep.report _
  · exact waitStep_frame s (mem_allIx x) rfl
  · exact keep.raiseFatal f rfl
  · exact (keep.setPC _).report _

/-! ## Only 00E0 and Dxyn draw (10_state.md rules R31, R34) -/

/-- The display instructions, 00E0 and Dxyn. -/
def IsDisplay (i : Instr) : Prop := i = .cls ∨ ∃ x y n, i = .drw x y n

/-- No other instruction has drawFlag or a pixel in its footprint. -/
theorem footprint_of_not_isDisplay {i : Instr} (hi : ¬ IsDisplay i) (s : State) :
    (footprint i s).drawFlag = false ∧ (footprint i s).fb = false := by
  cases i
  case cls => exact absurd (.inl rfl) hi
  case drw x y n => exact absurd (.inr ⟨x, y, n, rfl⟩) hi
  all_goals exact ⟨rfl, rfl⟩

/-- 00E0 and Dxyn set drawFlag when they complete, and never clear it. -/
theorem exec_drawFlag_of_isDisplay {i : Instr} {s t : State} (hi : IsDisplay i) (h : exec i s = .next t) :
    (t.result = .some ⟨.none, t.drawFlag⟩ → t.drawFlag = true) ∧ (s.drawFlag = true → t.drawFlag = true) := by
  rcases hi with rfl | ⟨x, y, n, rfl⟩
  · cases h
    exact ⟨fun _ => rfl, fun _ => rfl⟩
  · rcases execDrw_cases x y n s with ⟨_, h'⟩ | ⟨e, _, h'⟩
    · cases h'.symm.trans h
      exact ⟨fun _ => rfl, fun _ => rfl⟩
    · cases h'.symm.trans h
      exact ⟨fun hc => by simp at hc, id⟩

/-- A footprint without drawFlag and the framebuffer keeps both. -/
theorem Unchanged.display_kept {f : Footprint} {s t : State} (h : Unchanged f s t) (hflag : f.drawFlag = false)
    (hfb : f.fb = false) : (t.drawFlag = s.drawFlag ∧ ∀ row col, t.pixel row col = s.pixel row col) ∧
      (s.drawFlag = true → t.drawFlag = true) :=
  ⟨⟨h.drawFlag hflag, h.fb hfb⟩, fun hs => (h.drawFlag hflag).trans hs⟩

/-- Settles O51: the frame leaves drawFlag and the pixels alone unless 00E0 or Dxyn executes. -/
theorem onlyDisplayInstructionsDraw : Obligations.OnlyDisplayInstructionsDraw := by
  intro s t h
  rcases step_executes_or_frame h with ⟨w, i, hrun, hf, hd, hi⟩ | hu
  · by_cases hdisplay : IsDisplay i
    · obtain ⟨hset, hmono⟩ := exec_drawFlag_of_isDisplay hdisplay hi
      exact ⟨.inl ⟨⟨w, i, hrun, hf, hd, hdisplay⟩, hset⟩, hmono⟩
    · obtain ⟨hflag, hfb⟩ := footprint_of_not_isDisplay hdisplay s
      exact ((everyInstructionKeepsItsFrame i s t hi).display_kept hflag hfb).imp_left .inr
  · exact (hu.display_kept rfl rfl).imp_left .inr

/-! ## Address bounds (10_state.md rule R27, 41_control_flow.md rule R122) -/

/-- Where an instruction can leave PC (30_encoding.md rules R97 to R99). -/
inductive NextPC (s : State) : Word → Prop
  /-- a fatal condition, or a wait -/
  | stay : NextPC s s.PC
  /-- the advance -/
  | advance : NextPC s (s.PC + 2)
  /-- a skip that is taken -/
  | skip : NextPC s (s.PC + 4)
  /-- a return to an entry of the stack -/
  | pop (j : Ix) : NextPC s (s.getStack j)
  /-- a jump or a call -/
  | jump (nnn : Addr12) : NextPC s (extendAddr nnn)
  /-- a jump with an offset -/
  | jumpOffset (nnn : Addr12) (b : Byte) : NextPC s (extendAddr nnn + extendByte b)

theorem NextPC.skipIf_complete (s : State) (taken : Bool) : NextPC s (s.skipIf taken).complete.PC := by
  rw [State.skipIf_complete_PC]
  cases taken
  · exact .advance
  · exact .skip

/-- Each instruction leaves PC where one of the rules R97 to R99 puts it. -/
theorem exec_nextPC (i : Instr) (s : State) : ∃ t, exec i s = .next t ∧ NextPC s t.PC := by
  cases i with
  | ret =>
    rcases execRet_cases s with ⟨_, h⟩ | ⟨j, _, h⟩
    · exact ⟨_, h, .stay⟩
    · exact ⟨_, h, .pop j⟩
  | call nnn =>
    rcases execCall_cases nnn s with ⟨_, h⟩ | ⟨_, _, h⟩
    · exact ⟨_, h, .stay⟩
    · exact ⟨_, h, .jump nnn⟩
  | jp nnn => exact ⟨_, rfl, .jump nnn⟩
  | jpV0 nnn => exact ⟨_, rfl, .jumpOffset nnn _⟩
  | seVxKk _ _ | sneVxKk _ _ | seVxVy _ _ | sneVxVy _ _ => exact ⟨_, rfl, .skipIf_complete s _⟩
  | skp x | sknp x =>
    rcases skipOnKey_cases x _ s with ⟨_, _, h⟩ | ⟨_, h⟩
    · exact ⟨_, h, .skipIf_complete s _⟩
    · exact ⟨_, h, .stay⟩
  | addVxVy _ _ | sub _ _ | shr _ _ | subn _ _ | shl _ _ =>
    rcases writeFlagV_cases _ _ _ s with ⟨_, h⟩ | ⟨_, h⟩
    · exact ⟨_, h, .advance⟩
    · exact ⟨_, h, .advance⟩
  | drw x y n =>
    rcases execDrw_cases x y n s with ⟨_, h⟩ | ⟨_, _, h⟩
    · exact ⟨_, h, .advance⟩
    · exact ⟨_, h, .stay⟩
  | ldVxK x =>
    rcases execLdVxK_cases x s with ⟨_, _, h⟩ | ⟨_, h⟩
    · exact ⟨_, h, .advance⟩
    · exact ⟨_, h, .stay⟩
  | ldBVx _ | ldMemVx _ =>
    rcases storeAtI_cases _ s with ⟨_, h⟩ | ⟨_, _, h⟩
    · exact ⟨_, h, .advance⟩
    · exact ⟨_, h, .stay⟩
  | ldVxMem x =>
    rcases execLdVxMem_cases x s with ⟨_, h⟩ | ⟨_, _, h⟩
    · refine ⟨_, h, ?_⟩
      rw [loadRegs_eq]
      exact .advance
    · exact ⟨_, h, .stay⟩
  | cls | ldVxKk _ _ | addVxKk _ _ | ldVxVy _ _ | or _ _ | and _ _ | xor _ _ | rnd _ _ | ldI _ | addIVx _
  | ldFVx _ | ldVxDt _ | ldDtVx _ | ldStVx _ => exact ⟨_, rfl, .advance⟩

/-- From a PC where a word can be fetched, PC stays at most 0x10FE: Bnnn reaches the furthest (rule R27). -/
theorem NextPC.le {s : State} {pc : Word} (h : NextPC s pc) (hpc : s.PC.toNat + 1 < 0x1000)
    (hstack : ∀ j, (s.getStack j).toNat ≤ 0x1000) : pc.toNat ≤ 0x10FE := by
  cases h with
  | stay => omega
  | advance => bv_omega
  | skip => bv_omega
  | pop j => exact (hstack j).trans (by decide)
  | jump nnn =>
    simp only [extendAddr, BitVec.toNat_setWidth]
    omega
  | jumpOffset nnn b =>
    simp only [extendAddr, extendByte, BitVec.toNat_add, BitVec.toNat_setWidth]
    omega

/-- The word after a fetchable one starts at most at 0x1000 (rule R122). -/
theorem PC_add_two_le {s : State} (hpc : s.PC.toNat + 1 < 0x1000) : (s.PC + 2).toNat ≤ 0x1000 := by
  bv_omega

theorem fetch_ok_fits {s : State} {w : Word} (h : fetch s = .ok w) : s.PC.toNat + 1 < Config.memSize := by
  rcases fetch_cases s with ⟨hpc, _⟩ | ⟨_, h'⟩
  · exact hpc
  · simp [h'] at h

/-- An instruction keeps a stack entry, or is a CALL that pushes the address of the next instruction into it (rule R122). -/
theorem exec_getStack {i : Instr} {s t : State} (h : exec i s = .next t) (j : Ix) :
    t.getStack j = s.getStack j ∨ t.getStack j = s.PC + 2 := by
  cases i
  case call nnn =>
    rcases execCall_cases nnn s with ⟨_, h'⟩ | ⟨k, _, h'⟩
    · cases h'.symm.trans h
      exact .inl rfl
    · cases h'.symm.trans h
      rw [State.redirect_getStack, State.getStack_setStack]
      split
      · exact .inr rfl
      · exact .inl rfl
  all_goals exact .inl ((everyInstructionKeepsItsFrame _ s t h).stack j List.not_mem_nil)

/-- An instruction that ends waiting has kept PC (45_keys_timers.md rule R193). -/
theorem exec_waitKey_PC {i : Instr} {s t : State} {x : Ix} (hrun : s.run = .run) (h : exec i s = .next t)
    (hx : t.run = .waitKey x) : t.PC = s.PC := by
  rcases next_of_exists (exec_cases i s) h with ⟨_, hkeep⟩ | ⟨_, rfl⟩ | ⟨f, rfl⟩ | ⟨_, _, _, rfl⟩
  · simp [hkeep, hrun] at hx
  · simp [hrun] at hx
  · simp at hx
  · rfl

theorem exec_keeps_AddrInv {i : Instr} {s t : State} (hrun : s.run = .run) (hfit : s.PC.toNat + 1 < Config.memSize)
    (hs : s.AddrInv) (h : exec i s = .next t) : t.AddrInv := by
  obtain ⟨_, hstack, _⟩ := hs
  refine ⟨(next_of_exists (exec_nextPC i s) h).le hfit hstack, fun j => ?_, fun x hx => ?_⟩
  · rcases exec_getStack h j with hj | hj
    · exact hj ▸ hstack j
    · exact hj ▸ PC_add_two_le hfit
  · rw [exec_waitKey_PC hrun h hx]
    exact hfit

theorem waitStep_keeps_AddrInv {x : Ix} {s : State} (hrun : s.run = .waitKey x) (hs : s.AddrInv) : (waitStep x s).AddrInv := by
  rcases waitStep_cases x s with ⟨k, _, h⟩ | ⟨_, h⟩
  · obtain ⟨_, hstack, hwait⟩ := hs
    rw [h]
    exact ⟨(PC_add_two_le (hwait x hrun)).trans (by decide), hstack, fun _ hx => by cases hx⟩
  · exact h ▸ hs

/-- Settles O45: the invariant step by step, with `NextPC` for an executed instruction. -/
theorem stepKeepsAddressBounds : Obligations.StepKeepsAddressBounds := by
  intro s t hs h
  rcases step_cases s with ⟨c, _, h'⟩ | ⟨x, hrun, h'⟩ | ⟨_, f, _, h'⟩ | ⟨hrun, w, _, hf, _, h'⟩ | ⟨hrun, w, i, hf, _, h'⟩
  case inr.inr.inr.inr => exact exec_keeps_AddrInv hrun (fetch_ok_fits hf) hs (h'.symm.trans h)
  all_goals cases h'.symm.trans h
  · exact hs
  · exact waitStep_keeps_AddrInv hrun hs
  · obtain ⟨hpc, hstack, _⟩ := hs
    exact ⟨hpc, hstack, fun _ hx => by cases hx⟩
  · obtain ⟨_, hstack, _⟩ := hs
    exact ⟨(PC_add_two_le (fetch_ok_fits hf)).trans (by decide), hstack, fun _ hx => by cases hrun.symm.trans hx⟩

/-! ## ST is read by nothing inside the block (10_state.md rule R30) -/

/-- The outcome with its next state changed by a function. -/
def onNext (g : State → State) : Host.Outcome State Fault Refusal → Host.Outcome State Fault Refusal
  | .next s => .next (g s)
  | .fault r => .fault r
  | .refused r => .refused r

@[simp] theorem onNext_next (g : State → State) (s : State) : onNext g (.next s) = .next (g s) := rfl

theorem writeFlagV_setST (i : Instr) (x : Ix) (r : Byte × Bool) (s : State) (v : Byte) :
    writeFlagV i x r (s.setST v) = onNext (·.setST v) (writeFlagV i x r s) := by
  unfold writeFlagV
  split <;> rfl

theorem skipWhen_setST (taken : Bool) (s : State) (v : Byte) :
    skipWhen taken (s.setST v) = onNext (·.setST v) (skipWhen taken s) := by
  cases taken <;> rfl

theorem skipOnKey_setST (x : Ix) (wanted : Bool) (s : State) (v : Byte) :
    skipOnKey x wanted (s.setST v) = onNext (·.setST v) (skipOnKey x wanted s) := by
  unfold skipOnKey
  rw [State.setST_getV]
  cases keyIndex (s.getV x) with
  | none => rfl
  | some k => exact skipWhen_setST (s.pressed k == wanted) s v

theorem storeAtI_setST (bytes : List Byte) (s : State) (v : Byte) :
    storeAtI bytes (s.setST v) = onNext (·.setST v) (storeAtI bytes s) := by
  unfold storeAtI
  rw [State.setST_base]
  split <;> rfl

theorem loadRegs_setST (m : Memory) (base : Nat) (v : Byte) :
    ∀ (ks : List Ix) (s : State), loadRegs m base ks (s.setST v) = (loadRegs m base ks s).setST v
  | [], _ => rfl
  | _ :: ks, s => loadRegs_setST m base v ks (s.setV _ _)

theorem waitStep_setST (x : Ix) (s : State) (v : Byte) : waitStep x (s.setST v) = (waitStep x s).setST v := by
  unfold waitStep
  rw [State.setST_leastPressed]
  split <;> rfl

/-- Every instruction but Fx18 carries a value of ST through unread. -/
theorem exec_setST {i : Instr} (hi : ∀ x, i ≠ .ldStVx x) (s : State) (v : Byte) :
    exec i (s.setST v) = onNext (·.setST v) (exec i s) := by
  cases i with
  | ldStVx x => exact absurd rfl (hi x)
  | ret =>
    simp only [exec, execRet, State.setST_SP]
    split <;> rfl
  | call nnn =>
    simp only [exec, execCall, State.setST_SP]
    split <;> rfl
  | seVxKk _ _ | sneVxKk _ _ | seVxVy _ _ | sneVxVy _ _ => exact skipWhen_setST _ s v
  | skp x | sknp x => exact skipOnKey_setST x _ s v
  | addVxVy _ _ | sub _ _ | shr _ _ | subn _ _ | shl _ _ => exact writeFlagV_setST _ _ _ s v
  | ldBVx _ | ldMemVx _ => exact storeAtI_setST _ s v
  | drw x y n =>
    simp only [exec, execDrw, State.setST_base]
    split <;> rfl
  | ldVxK x =>
    simp only [exec, execLdVxK, State.setST_leastPressed]
    split <;> rfl
  | ldVxMem x =>
    simp only [exec, execLdVxMem, State.setST_base, State.setST_mem, loadRegs_setST]
    split <;> rfl
  | cls | jp _ | jpV0 _ | ldVxKk _ _ | addVxKk _ _ | ldVxVy _ _ | or _ _ | and _ _ | xor _ _ | rnd _ _ | ldI _ | addIVx _
  | ldFVx _ | ldVxDt _ | ldDtVx _ => rfl

/-- A step either carries ST through unread, or executes Fx18 and overwrites it. -/
theorem step_setST (s : State) (v : Byte) :
    step (s.setST v) = onNext (·.setST v) (step s) ∨ step (s.setST v) = step s := by
  have hfetch : fetch (s.setST v) = fetch s := rfl
  rcases step_cases s with ⟨c, hrun, h⟩ | ⟨x, hrun, h⟩ | ⟨hrun, f, hf, h⟩ | ⟨hrun, w, e, hf, hd, h⟩ | ⟨hrun, w, i, hf, hd, h⟩
  · exact .inl (by rw [h, step_of_halt (s := s.setST v) hrun]; rfl)
  · exact .inl (by rw [h, step_of_wait (s := s.setST v) hrun, waitStep_setST]; rfl)
  · exact .inl (by rw [h, step_of_fetch_error (s := s.setST v) hrun (hfetch.trans hf)]; rfl)
  · exact .inl (by rw [h, step_of_decode_error (s := s.setST v) hrun (hfetch.trans hf) hd]; rfl)
  · rw [h, step_of_decode (s := s.setST v) hrun (hfetch.trans hf) hd]
    by_cases hi : ∃ x, i = .ldStVx x
    · obtain ⟨x, rfl⟩ := hi
      exact .inr rfl
    · exact .inl (exec_setST (not_exists.mp hi) s v)

/-- Settles O52: in either case of `step_setST` the next states agree once ST does. -/
theorem soundTimerIsReadByNothing : Obligations.SoundTimerIsReadByNothing := by
  intro s t v h
  rcases step_setST s v with h' | h'
  · exact ⟨t.setST v, by rw [h', h, onNext_next], rfl⟩
  · exact ⟨t, h'.trans h, rfl⟩

end Sys2Proof.Machine

/-! # Family 20, memory: what an event can write -/

namespace Sys2Proof.Machine

/-! ## Writes to program memory (20_memory.md rules R54, R57, R60) -/

/-- What one event other than reset can do to memory: nothing, or a store that lies wholly in 0x200-0xFFF. -/
inductive Memory.ProgramWrite (m : Memory) : Memory → Prop
  | keep : ProgramWrite m m
  | store {a : Nat} {bytes : List Byte} (hbase : Config.programBase ≤ a) (hend : a + bytes.length ≤ Config.memSize) :
      ProgramWrite m (Memory.writeList m a bytes)

namespace Memory.ProgramWrite

variable {m m' : Memory}

theorem wf (h : ProgramWrite m m') (hm : Memory.wf m = true) : Memory.wf m' = true := by
  cases h with
  | keep => exact hm
  | store _ _ => exact Memory.wf_writeList _ hm

theorem inSpace (h : ProgramWrite m m') (hm : Memory.inSpace m = true) : Memory.inSpace m' = true := by
  cases h with
  | keep => exact hm
  | store _ hend => exact Memory.inSpace_writeList _ hend hm

/-- The bytes below 0x200 are kept, whether or not the list is canonical (rule R54). -/
theorem read_protected (h : ProgramWrite m m') {a : Nat} (ha : a < Config.programBase) : Memory.read m' a = Memory.read m a := by
  cases h with
  | keep => rfl
  | store hbase _ => exact Memory.read_writeList_outside _ (.inl (ha.trans_le hbase))

end Memory.ProgramWrite

theorem State.MemInv.of_programWrite {s t : State} (hs : s.MemInv) (h : Memory.ProgramWrite s.mem t.mem) : t.MemInv := by
  obtain ⟨hwf, hspace, hreset⟩ := hs
  exact ⟨h.wf hwf, h.inSpace hspace, fun a ha => (h.read_protected ha).trans (hreset a ha)⟩

/-! ## Every event but reset writes program memory only -/

/-- The checks of a store leave it no bytes outside 0x200-0xFFF to write (rule R60). -/
theorem storeAtI_programWrite (bytes : List Byte) (s : State) :
    ∃ t, storeAtI bytes s = .next t ∧ Memory.ProgramWrite s.mem t.mem := by
  rcases storeAtI_cases bytes s with ⟨hempty | ⟨hbase, hend⟩, h⟩ | ⟨_, _, h⟩
  · rw [List.length_eq_zero_iff] at hempty
    subst hempty
    exact ⟨_, h, .keep⟩
  · exact ⟨_, h, .store hbase hend⟩
  · exact ⟨_, h, .keep⟩

theorem loadRegs_mem (m : Memory) (base : Nat) (ks : List Ix) (s : State) : (loadRegs m base ks s).mem = s.mem := by
  rw [loadRegs_eq]

/-- Only Fx33 and Fx55 write memory, through the checked store. -/
theorem exec_programWrite (i : Instr) (s : State) : ∃ t, exec i s = .next t ∧ Memory.ProgramWrite s.mem t.mem := by
  have kept {t : State} (ht : t.mem = s.mem) : Memory.ProgramWrite s.mem t.mem := ht ▸ .keep
  cases i with
  | ldBVx _ | ldMemVx _ => exact storeAtI_programWrite _ s
  | ret =>
    rcases execRet_cases s with ⟨_, h⟩ | ⟨_, _, h⟩
    all_goals exact ⟨_, h, .keep⟩
  | call nnn =>
    rcases execCall_cases nnn s with ⟨_, h⟩ | ⟨_, _, h⟩
    all_goals exact ⟨_, h, .keep⟩
  | seVxKk _ _ | sneVxKk _ _ | seVxVy _ _ | sneVxVy _ _ => exact ⟨_, rfl, kept (s.skipIf_mem _)⟩
  | skp x | sknp x =>
    rcases skipOnKey_cases x _ s with ⟨_, _, h⟩ | ⟨_, h⟩
    · exact ⟨_, h, kept (s.skipIf_mem _)⟩
    · exact ⟨_, h, .keep⟩
  | addVxVy _ _ | sub _ _ | shr _ _ | subn _ _ | shl _ _ =>
    rcases writeFlagV_cases _ _ _ s with ⟨_, h⟩ | ⟨_, h⟩
    all_goals exact ⟨_, h, .keep⟩
  | drw x y n =>
    rcases execDrw_cases x y n s with ⟨_, h⟩ | ⟨_, _, h⟩
    all_goals exact ⟨_, h, .keep⟩
  | ldVxK x =>
    rcases execLdVxK_cases x s with ⟨_, _, h⟩ | ⟨_, h⟩
    all_goals exact ⟨_, h, .keep⟩
  | ldVxMem x =>
    rcases execLdVxMem_cases x s with ⟨_, h⟩ | ⟨_, _, h⟩
    · exact ⟨_, h, kept (loadRegs_mem _ _ _ s)⟩
    · exact ⟨_, h, .keep⟩
  | cls | jp _ | jpV0 _ | ldVxKk _ _ | addVxKk _ _ | ldVxVy _ _ | or _ _ | and _ _ | xor _ _ | rnd _ _ | ldI _ | addIVx _
  | ldFVx _ | ldVxDt _ | ldDtVx _ | ldStVx _ => exact ⟨_, rfl, .keep⟩

theorem waitStep_mem (x : Ix) (s : State) : (waitStep x s).mem = s.mem := by
  rcases waitStep_cases x s with ⟨_, _, h⟩ | ⟨_, h⟩
  all_goals exact h ▸ rfl

theorem step_programWrite {s t : State} (h : step s = .next t) : Memory.ProgramWrite s.mem t.mem := by
  rcases step_cases s with ⟨_, _, h'⟩ | ⟨x, _, h'⟩ | ⟨_, _, _, h'⟩ | ⟨_, _, _, _, _, h'⟩ | ⟨_, _, i, _, _, h'⟩
  case inr.inr.inr.inr => exact next_of_exists (exec_programWrite i s) (h'.symm.trans h)
  all_goals cases h'.symm.trans h
  case inr.inl => exact (waitStep_mem x s).symm ▸ .keep
  all_goals exact .keep

/-- A load copies an image that fits, gives back that it is too large, or is refused (60_exceptions.md rule R225). -/
theorem State.hostLoad_cases (s : State) (bytes : List Byte) :
    (s.loadAllowed = true ∧ bytes.length ≤ Config.maxProgram ∧ s.hostLoad bytes =
      .next ({ s.setMem (Memory.writeList s.mem Config.programBase bytes) with loaded := true }, .ok)) ∨
    (s.loadAllowed = true ∧ Config.maxProgram < bytes.length ∧ s.hostLoad bytes = .next (s, .programTooLarge)) ∨
    (s.loadAllowed = false ∧ s.hostLoad bytes = .refused .lateLoad) := by
  unfold State.hostLoad
  split
  · next hallowed =>
    split
    · next hlarge => exact .inr (.inl ⟨hallowed, hlarge, rfl⟩)
    · next hfits => exact .inl ⟨hallowed, not_lt.mp hfits, rfl⟩
  · next hlate => exact .inr (.inr ⟨eq_false_of_ne_true hlate, rfl⟩)

/-- An image that fits ends inside memory: MAX_PROGRAM is what is left above 0x200 (00_scope.md rule R7). -/
theorem runEvent_load_programWrite {bytes : List Byte} {s t : State} (h : runEvent (.load bytes) s = .next t) :
    Memory.ProgramWrite s.mem t.mem := by
  rcases s.hostLoad_cases bytes with ⟨_, hfits, h'⟩ | ⟨_, _, h'⟩ | ⟨_, h'⟩
  all_goals simp only [runEvent, h', Host.Outcome.next.injEq, reduceCtorEq] at h
  · subst h
    exact .store le_rfl (Nat.add_le_add_left hfits Config.programBase)
  · subst h
    exact .keep

theorem runEvent_programWrite {e : Event} {s t : State} (he : e ≠ .reset) (h : runEvent e s = .next t) :
    Memory.ProgramWrite s.mem t.mem := by
  cases e with
  | step => exact step_programWrite h
  | load bytes => exact runEvent_load_programWrite h
  | tick | setKey _ _ | clearDrawFlag =>
    cases h
    exact .keep
  | reset => exact absurd rfl he

/-- Settles O44: a step writes program memory only, and such a write keeps the invariant. -/
theorem stepKeepsMemory : Obligations.StepKeepsMemory :=
  fun _ _ hs h => hs.of_programWrite (step_programWrite h)

/-- Settles O48: an event but reset writes program memory only, which lies above every protected byte. -/
theorem noWriteBelowTheProgramBase : Obligations.NoWriteBelowTheProgramBase :=
  fun _ _ _ he h _ ha => (runEvent_programWrite he h).read_protected ha

end Sys2Proof.Machine

/-! # Family 30, encoding and the step cycle -/

namespace Sys2Proof

/-! ## Decoding what was encoded (30_encoding.md rules R81, R82, R85) -/

/-- The decoder reads back the instruction of each format: the field lemmas give it the opcode, the sub-opcode and the operands. -/
theorem decodeWord_encode (i : Instr) : decodeWord (encode i) = .ok i := by
  cases i with
  | cls | ret => rfl
  | jp nnn | call nnn | ldI nnn | jpV0 nnn => simp [encode, decodeWord, Word.op_encodeAddr, Word.nnn_encodeAddr]
  | seVxKk x kk | sneVxKk x kk | ldVxKk x kk | addVxKk x kk | rnd x kk =>
    simp [encode, decodeWord, Word.op_encodeXKK, Word.x_encodeXKK, Word.kk_encodeXKK]
  | seVxVy x y | sneVxVy x y =>
    simp [encode, decodeWord, Word.op_encodeXYN, Word.x_encodeXYN, Word.y_encodeXYN, Word.n_encodeXYN]
  | drw x y n =>
    simp [encode, decodeWord, nibble, Word.op_encodeXYN, Word.x_encodeXYN, Word.y_encodeXYN, Word.n_encodeXYN]
  | ldVxVy x y | or x y | and x y | xor x y | addVxVy x y | sub x y | shr x y | subn x y | shl x y =>
    simp [encode, decodeWord, decode8, Word.op_encodeXYN, Word.x_encodeXYN, Word.y_encodeXYN, Word.n_encodeXYN]
  | skp x | sknp x =>
    simp [encode, decodeWord, decodeE, Word.op_encodeXKK, Word.x_encodeXKK, Word.kk_encodeXKK]
  | ldVxDt x | ldVxK x | ldDtVx x | ldStVx x | addIVx x | ldFVx x | ldBVx x | ldMemVx x | ldVxMem x =>
    simp [encode, decodeWord, decodeF, Word.op_encodeXKK, Word.x_encodeXKK, Word.kk_encodeXKK]

/-- Two bytes decode as their word does, and leave the bytes after them (rule R80). -/
theorem decode_cons_cons (hi lo : Byte) (rest : List Byte) :
    decode (hi :: lo :: rest) = (decodeWord (wordOfBytes hi lo)).map (·, rest) := rfl

theorem decodeWord_of_decode {hi lo : Byte} {bytes rest : List Byte} {i : Instr}
    (h : decode (hi :: lo :: bytes) = .ok (i, rest)) : decodeWord (wordOfBytes hi lo) = .ok i := by
  rw [decode_cons_cons] at h
  cases hd : decodeWord (wordOfBytes hi lo) with
  | ok j =>
    rw [hd] at h
    cases h
    rfl
  | error e =>
    rw [hd] at h
    cases h

/-- The bytes of a word, high byte first, decode as the word does, and leave the bytes after them (20_memory.md rule R52). -/
theorem decode_bytesOfWord (w : Word) (rest : List Byte) :
    decode (bytesOfWord w ++ rest) = (decodeWord w).map (·, rest) :=
  (decode_cons_cons _ _ rest).trans (by rw [wordOfBytes_bytes])

/-- Settles O2: the field lemmas for the word, and the byte order for its bytes. -/
theorem decodeOfEncodeIsIdentity : Obligations.DecodeOfEncodeIsIdentity := fun i =>
  ⟨decodeWord_encode i, fun rest => by rw [decode_bytesOfWord, decodeWord_encode]; rfl⟩

/-! ## What the decoder can answer (rules R86, R87) -/

/-- The two answers to a word: an instruction that encodes to it, or UnknownOpcode with the word. -/
def Answers (w : Word) (d : DecodeResult) : Prop :=
  (∃ i, d = .ok i ∧ encode i = w) ∨ d = .error (.unknownOpcode w)

theorem Answers.instr {w : Word} {i : Instr} (h : encode i = w) : Answers w (.ok i) := .inl ⟨i, rfl, h⟩

theorem Answers.unknown {w : Word} : Answers w (.error (.unknownOpcode w)) := .inr rfl

section
variable {w : Word} {op : BitVec 4} (hop : w.op.toNat = op.toNat)
include hop

theorem Word.encodeAddr_of_op : encodeAddr op w.nnn = w :=
  BitVec.eq_of_toNat_eq hop ▸ w.encodeAddr_fields

theorem Word.encodeXKK_of_op {kk : Byte} (hkk : w.kk.toNat = kk.toNat) : encodeXKK op w.x kk = w :=
  BitVec.eq_of_toNat_eq hop ▸ BitVec.eq_of_toNat_eq hkk ▸ w.encodeXKK_fields

theorem Word.encodeXYN_of_op {n : BitVec 4} (hn : w.n.val = n.toNat) : encodeXYN op w.x w.y n = w :=
  have hnibble : nibble w.n = n := BitVec.eq_of_toNat_eq hn
  BitVec.eq_of_toNat_eq hop ▸ hnibble ▸ w.encodeXYN_fields

end

theorem decode0_answers (w : Word) : Answers w (decode0 w) := by
  unfold decode0
  split
  · next h => exact .instr h.symm
  · split
    · next h => exact .instr h.symm
    · exact .unknown

theorem decode8_answers {w : Word} (hop : w.op.toNat = 0x8) : Answers w (decode8 w) := by
  unfold decode8
  split
  case h_10 => exact .unknown
  all_goals exact .instr (Word.encodeXYN_of_op hop ‹_›)

theorem decodeE_answers {w : Word} (hop : w.op.toNat = 0xE) : Answers w (decodeE w) := by
  unfold decodeE
  split
  case h_3 => exact .unknown
  all_goals exact .instr (Word.encodeXKK_of_op hop ‹_›)

theorem decodeF_answers {w : Word} (hop : w.op.toNat = 0xF) : Answers w (decodeF w) := by
  unfold decodeF
  split
  case h_10 => exact .unknown
  all_goals exact .instr (Word.encodeXKK_of_op hop ‹_›)

/-- By the families of rule R86: an accepted word is put together again from its fields. -/
theorem decodeWord_answers (w : Word) : Answers w (decodeWord w) := by
  unfold decodeWord
  split
  case h_1 => exact decode0_answers w
  case h_2 hop | h_3 hop | h_11 hop | h_12 hop => exact .instr (Word.encodeAddr_of_op hop)
  case h_4 hop | h_5 hop | h_7 hop | h_8 hop | h_13 hop => exact .instr (Word.encodeXKK_of_op hop rfl)
  case h_6 hop | h_10 hop =>
    split
    · next hn => exact .instr (Word.encodeXYN_of_op hop (congrArg Fin.val hn))
    · exact .unknown
  case h_9 hop => exact decode8_answers hop
  case h_14 hop => exact .instr (Word.encodeXYN_of_op hop rfl)
  case h_15 hop => exact decodeE_answers hop
  case h_16 hop => exact decodeF_answers hop
  case h_17 => exact .unknown

/-- Settles O3: an accepted word is one the decoder answers with an instruction that encodes to it. -/
theorem encodeOfDecodeIsIdentity : Obligations.EncodeOfDecodeIsIdentity := by
  intro w i h
  rcases decodeWord_answers w with ⟨j, hj, hw⟩ | herr
  · cases hj.symm.trans h
    exact hw
  · cases herr.symm.trans h

/-! ## The rows of the opcode table (rules R85, R88) -/

namespace Laws.EncodesItsRow

/-- Every instruction's word selects its own row. -/
theorem all : ∀ i : Instr, Statement i
  | .cls => cls
  | .ret => ret
  | .jp _ => jp _
  | .call _ => call _
  | .seVxKk _ _ => seVxKk _ _
  | .sneVxKk _ _ => sneVxKk _ _
  | .seVxVy _ _ => seVxVy _ _
  | .ldVxKk _ _ => ldVxKk _ _
  | .addVxKk _ _ => addVxKk _ _
  | .ldVxVy _ _ => ldVxVy _ _
  | .or _ _ => or _ _
  | .and _ _ => and _ _
  | .xor _ _ => xor _ _
  | .addVxVy _ _ => addVxVy _ _
  | .sub _ _ => sub _ _
  | .shr _ _ => shr _ _
  | .subn _ _ => subn _ _
  | .shl _ _ => shl _ _
  | .sneVxVy _ _ => sneVxVy _ _
  | .ldI _ => ldI _
  | .jpV0 _ => jpV0 _
  | .rnd _ _ => rnd _ _
  | .drw _ _ _ => drw _ _ _
  | .skp _ => skp _
  | .sknp _ => sknp _
  | .ldVxDt _ => ldVxDt _
  | .ldVxK _ => ldVxK _
  | .ldDtVx _ => ldDtVx _
  | .ldStVx _ => ldStVx _
  | .addIVx _ => addIVx _
  | .ldFVx _ => ldFVx _
  | .ldBVx _ => ldBVx _
  | .ldMemVx _ => ldMemVx _
  | .ldVxMem _ => ldVxMem _

end Laws.EncodesItsRow

theorem wordDefined_iff {w : Word} : wordDefined w = true ↔ ∃ r ∈ opcodeTable, r.selects w = true :=
  List.any_eq_true

theorem wordDefined_encode (i : Instr) : wordDefined (encode i) = true := by
  obtain ⟨r, hr, hw⟩ := Laws.EncodesItsRow.all i
  exact wordDefined_iff.mpr ⟨r, List.mem_of_getElem? hr, beq_iff_eq.mpr hw⟩

section
variable {r : OpcodeRow} {w : Word} (h : r.selects w = true)
include h

theorem OpcodeRow.and_mask_of_selects : w &&& r.mask = r.code := beq_iff_eq.mp h

/-- A row that masks no bit away selects its code only. -/
theorem OpcodeRow.eq_code_of_selects (hm : r.mask = BitVec.allOnes 16) : w = r.code := by
  rw [← r.and_mask_of_selects h, hm, BitVec.and_allOnes]

/-- A field that the row's mask keeps whole is the field of the row's code. -/
theorem OpcodeRow.extract_of_selects {start len : Nat} (hm : r.mask.extractLsb' start len = BitVec.allOnes len) :
    w.extractLsb' start len = r.code.extractLsb' start len := by
  rw [← r.and_mask_of_selects h, BitVec.extractLsb'_and, hm, BitVec.and_allOnes]

end

/-- The mask of a row keeps every bit the decoder tests in the row's family. -/
theorem opcodeTable_masks : ∀ r ∈ opcodeTable, r.mask.op = BitVec.allOnes 4 ∧
    (r.code.op.toNat = 0x0 → r.mask = BitVec.allOnes 16) ∧
    (r.code.op.toNat = 0x5 ∨ r.code.op.toNat = 0x8 ∨ r.code.op.toNat = 0x9 → r.mask.extractLsb' 0 4 = BitVec.allOnes 4) ∧
    (r.code.op.toNat = 0xE ∨ r.code.op.toNat = 0xF → r.mask.kk = BitVec.allOnes 8) := by
  decide

theorem opcodeTable_codes_decode : ∀ r ∈ opcodeTable, (decodeWord r.code).isOk = true := by
  decide

theorem decode8_isOk_congr {v w : Word} (h : w.n = v.n) : (decode8 w).isOk = (decode8 v).isOk := by
  unfold decode8
  rw [h]
  split <;> rfl

theorem decodeE_isOk_congr {v w : Word} (h : w.kk = v.kk) : (decodeE w).isOk = (decodeE v).isOk := by
  unfold decodeE
  rw [h]
  split <;> rfl

theorem decodeF_isOk_congr {v w : Word} (h : w.kk = v.kk) : (decodeF w).isOk = (decodeF v).isOk := by
  unfold decodeF
  rw [h]
  split <;> rfl

/-- The decoder tests only bits the row's mask keeps, so it accepts a row's word exactly when it accepts the row's code. -/
theorem decodeWord_isOk_of_selects {r : OpcodeRow} {w : Word} (hr : r ∈ opcodeTable) (h : r.selects w = true) :
    (decodeWord w).isOk = (decodeWord r.code).isOk := by
  obtain ⟨hop, hfix, hn, hkk⟩ := opcodeTable_masks r hr
  have sameOp : w.op = r.code.op := r.extract_of_selects h hop
  have sameN (hm) : w.n = r.code.n := congrArg BitVec.toFin (r.extract_of_selects h (hn hm))
  have sameKK (hm) : w.kk = r.code.kk := r.extract_of_selects h (hkk hm)
  unfold decodeWord
  rw [sameOp]
  split
  case h_1 h0 => rw [r.eq_code_of_selects h (hfix h0)]
  case h_6 h5 =>
    rw [sameN (.inl h5)]
    split <;> rfl
  case h_9 h8 => exact decode8_isOk_congr (sameN (.inr (.inl h8)))
  case h_10 h9 =>
    rw [sameN (.inr (.inr h9))]
    split <;> rfl
  case h_15 hE => exact decodeE_isOk_congr (sameKK (.inl hE))
  case h_16 hF => exact decodeF_isOk_congr (sameKK (.inr hF))
  all_goals rfl

/-- Settles O4: a row's words are accepted as its code is, and an accepted word is an encoding, which selects a row. -/
theorem decoderAcceptsExactlyTheTable : Obligations.DecoderAcceptsExactlyTheTable := by
  intro w
  rcases decodeWord_answers w with ⟨i, hi, hw⟩ | herr
  · have hdef : wordDefined w = true := hw ▸ wordDefined_encode i
    exact ⟨fun _ => ⟨i, hi⟩, fun hundef => absurd (hdef.symm.trans hundef) (by decide)⟩
  · refine ⟨fun hdef => ?_, fun _ => herr⟩
    obtain ⟨r, hr, hsel⟩ := wordDefined_iff.mp hdef
    have hok : (decodeWord w).isOk = true := (decodeWord_isOk_of_selects hr hsel).trans (opcodeTable_codes_decode r hr)
    rw [herr] at hok
    cases hok

/-! ## No word selects two rows (rule R85) -/

/-- Both sides are the word under both masks. -/
theorem selects_code_and {r r' : OpcodeRow} {w : Word} (h : r.selects w = true) (h' : r'.selects w = true) :
    r.code &&& r'.mask = r'.code &&& r.mask := by
  rw [← r.and_mask_of_selects h, ← r'.and_mask_of_selects h', BitVec.and_assoc, BitVec.and_assoc, BitVec.and_comm r.mask]

theorem opcodeTable_codes_differ : ∀ r ∈ opcodeTable, ∀ r' ∈ opcodeTable, r.code &&& r'.mask = r'.code &&& r.mask → r = r' := by
  decide

/-- Settles O5: a word both rows select agrees with both codes under both masks, and no two rows' codes agree so. -/
theorem opcodeRowsAreDisjoint : Obligations.OpcodeRowsAreDisjoint :=
  ⟨rfl, fun _ r r' hr hr' h h' => opcodeTable_codes_differ r hr r' hr' (selects_code_and h h')⟩

/-- Settles O1: the decoder is run on each word. -/
theorem writtenWordsDecode : Obligations.WrittenWordsDecode := by
  unfold Obligations.WrittenWordsDecode
  decide

end Sys2Proof

namespace Sys2Proof.Machine

/-! ## Fetch and decode in a step (30_encoding.md rules R87, R95, R96) -/

theorem fetch_of_lt {s : State} (h : s.PC.toNat + 1 < Config.memSize) :
    fetch s = .ok (wordOfBytes (s.readMem s.PC.toNat) (s.readMem (s.PC.toNat + 1))) := by
  rcases fetch_cases s with ⟨_, hf⟩ | ⟨hpc, _⟩
  · exact hf
  · omega

theorem fetch_of_le {s : State} (h : Config.memSize ≤ s.PC.toNat + 1) :
    fetch s = .error (.memoryOutOfRange (max s.PC.toNat Config.memSize)) := by
  rcases fetch_cases s with ⟨hpc, _⟩ | ⟨_, hf⟩
  · omega
  · exact hf

/-- Settles O7: the lowest address out of range is PC, or 0x1000 when only PC + 1 is. -/
theorem fetchReadsTheWordAtPC : Obligations.FetchReadsTheWordAtPC := by
  intro s
  refine ⟨fun h => ⟨_, fetch_of_lt h, toNat_wordOfBytes _ _⟩, fun h => ?_, fun h => ?_⟩
  · rw [fetch_of_le (Nat.le_succ_of_le h), max_eq_left h]
  · rw [fetch_of_le (congrArg (· + 1) h).ge, h]
    rfl

/-- Settles O6: the two bytes make the word that is fetched. -/
theorem stepRunsTheDecodedInstruction : Obligations.StepRunsTheDecodedInstruction :=
  fun _ _ _ hrun hpc hd => step_of_decode hrun (fetch_of_lt hpc) (decodeWord_of_decode hd)

/-- Settles O9: the decoder rejects a word of no row, and the step only advances and reports. -/
theorem unknownOpcodeIsANoOp : Obligations.UnknownOpcodeIsANoOp := by
  intro s w hrun hf hdef
  have hd : decodeWord w = .error (.unknownOpcode w) := (decoderAcceptsExactlyTheTable w).2 hdef
  exact ⟨_, step_of_decode_error hrun hf hd, ⟨rfl, rfl⟩, ((Unchanged.refl {} s).setPC _).report _⟩

/-! ## The net effect of a step on PC (30_encoding.md rules R97 to R99) -/

theorem toNat_extendAddr (nnn : Addr12) : (extendAddr nnn).toNat = nnn.toNat := by
  unfold extendAddr
  bv_omega

/-- Bnnn cannot wrap: 0xFFF + 0xFF has 16 bits (41_control_flow.md rule R123). -/
theorem toNat_extendAddr_add (nnn : Addr12) (b : Byte) : (extendAddr nnn + extendByte b).toNat = nnn.toNat + b.toNat := by
  unfold extendAddr extendByte
  bv_omega

/-- A skip on a condition ends where rule R99 says. -/
theorem skipIf_complete_PC_of_iff (s : State) {taken : Bool} {p : Prop} [Decidable p] (h : taken = true ↔ p) :
    (s.skipIf taken).complete.PC = if p then s.PC + 4 else s.PC + 2 := by
  rw [State.skipIf_complete_PC]
  exact if_congr h rfl rfl

/-- An instruction that reports None has taken PC where rule R99 says. -/
theorem exec_netPC (i : Instr) (s : State) :
    ∃ t, exec i s = .next t ∧ (t.result = .some ⟨.none, t.drawFlag⟩ → NetPC i s t) := by
  have fatal (f : Fatal) : (s.raiseFatal f).result ≠ .some ⟨.none, s.drawFlag⟩ := by simp
  cases i with
  | ret =>
    rcases execRet_cases s with ⟨_, h⟩ | ⟨j, hj, h⟩
    · exact ⟨_, h, fun hc => absurd hc (fatal _)⟩
    · exact ⟨_, h, fun _ => ⟨j, hj, rfl⟩⟩
  | call nnn =>
    rcases execCall_cases nnn s with ⟨_, h⟩ | ⟨_, _, h⟩
    · exact ⟨_, h, fun hc => absurd hc (fatal _)⟩
    · exact ⟨_, h, fun _ => toNat_extendAddr nnn⟩
  | jp nnn => exact ⟨_, rfl, fun _ => toNat_extendAddr nnn⟩
  | jpV0 nnn => exact ⟨_, rfl, fun _ => toNat_extendAddr_add nnn _⟩
  | seVxKk _ _ | seVxVy _ _ => exact ⟨_, rfl, fun _ => skipIf_complete_PC_of_iff s beq_iff_eq⟩
  | sneVxKk _ _ | sneVxVy _ _ => exact ⟨_, rfl, fun _ => skipIf_complete_PC_of_iff s bne_iff_ne⟩
  | skp x | sknp x =>
    rcases skipOnKey_cases x _ s with ⟨k, hk, h⟩ | ⟨_, h⟩
    · exact ⟨_, h, fun _ => ⟨k, hk, skipIf_complete_PC_of_iff s (by simp [State.pressed])⟩⟩
    · exact ⟨_, h, fun hc => absurd hc (fatal _)⟩
  | addVxVy _ _ | sub _ _ | shr _ _ | subn _ _ | shl _ _ =>
    rcases writeFlagV_cases _ _ _ s with ⟨_, h⟩ | ⟨_, h⟩
    all_goals exact ⟨_, h, fun _ => rfl⟩
  | drw x y n =>
    rcases execDrw_cases x y n s with ⟨_, h⟩ | ⟨_, _, h⟩
    · exact ⟨_, h, fun _ => rfl⟩
    · exact ⟨_, h, fun hc => absurd hc (fatal _)⟩
  | ldVxK x =>
    rcases execLdVxK_cases x s with ⟨_, _, h⟩ | ⟨_, h⟩
    · exact ⟨_, h, fun _ => rfl⟩
    · exact ⟨_, h, fun hc => by simp at hc⟩
  | ldBVx _ | ldMemVx _ =>
    rcases storeAtI_cases _ s with ⟨_, h⟩ | ⟨_, _, h⟩
    · exact ⟨_, h, fun _ => rfl⟩
    · exact ⟨_, h, fun hc => absurd hc (fatal _)⟩
  | ldVxMem x =>
    rcases execLdVxMem_cases x s with ⟨_, h⟩ | ⟨_, _, h⟩
    · exact ⟨_, h, fun _ => by rw [loadRegs_eq]; rfl⟩
    · exact ⟨_, h, fun hc => absurd hc (fatal _)⟩
  | cls | ldVxKk _ _ | addVxKk _ _ | ldVxVy _ _ | or _ _ | and _ _ | xor _ _ | rnd _ _ | ldI _ | addIVx _
  | ldFVx _ | ldVxDt _ | ldDtVx _ | ldStVx _ => exact ⟨_, rfl, fun _ => rfl⟩

/-- Settles O13: a step in RUN raises a fetch fault, skips an unknown word, or executes to one of the four endings. -/
theorem netEffectOnPC : Obligations.NetEffectOnPC := by
  intro s hrun
  rcases step_cases s with ⟨c, hc, _⟩ | ⟨x, hx, _⟩ | ⟨_, f, _, h⟩ | ⟨_, w, _, _, _, h⟩ | ⟨_, w, i, hf, hd, h⟩
  · cases hrun.symm.trans hc
  · cases hrun.symm.trans hx
  · exact ⟨_, .fatal f, h, rfl, rfl⟩
  · exact ⟨_, .unknownOpcode w, h, rfl, rfl⟩
  · obtain ⟨t, ht, hnet⟩ := exec_netPC i s
    refine ⟨t, ?_⟩
    rcases next_of_exists (exec_cases i s) ht with ⟨hnone, _⟩ | ⟨_, rfl⟩ | ⟨f, rfl⟩ | ⟨x, rfl, _, rfl⟩
    · exact ⟨.none, h.trans ht, hnone, w, i, hf, hd, hnet hnone⟩
    · exact ⟨.invalidOperandIndex _, h.trans ht, rfl, rfl⟩
    · exact ⟨.fatal f, h.trans ht, rfl, rfl⟩
    · exact ⟨.waitingForKey x, h.trans ht, rfl, ⟨w, hf, hd⟩, rfl⟩

end Sys2Proof.Machine

/-! # Family 40, display -/

namespace Sys2Proof.Machine

/-! ## Drawing flips a set of pixels (40_display.md rules R112 to R114) -/

/-- Drawing on `fb` has reached `d`: exactly the pixels of `P`, as (row, column), differ from `fb`, and the collision says whether
one of them was 1. -/
structure Flips (fb : Framebuffer) (P : Set (Fin 32 × Fin 64)) (d : Framebuffer × Bool) : Prop where
  pixel : ∀ row col, Framebuffer.get d.1 row col ≠ Framebuffer.get fb row col ↔ (row, col) ∈ P
  collision : d.2 = true ↔ ∃ row col, (row, col) ∈ P ∧ Framebuffer.get fb row col = true

theorem Flips.start (fb : Framebuffer) : Flips fb ∅ (fb, false) := ⟨by simp, by simp⟩

/-- A pixel that was 1 is flipped exactly when it went to 0: the collision of rule R112. -/
theorem Flips.collision_iff {fb : Framebuffer} {P : Set (Fin 32 × Fin 64)} {d : Framebuffer × Bool} (h : Flips fb P d) :
    d.2 = true ↔ ∃ row col, Framebuffer.get fb row col = true ∧ Framebuffer.get d.1 row col = false := by
  have hpixel (row : Fin 32) (col : Fin 64) : (row, col) ∈ P ∧ Framebuffer.get fb row col = true ↔
      Framebuffer.get fb row col = true ∧ Framebuffer.get d.1 row col = false := by
    rw [← h.pixel, and_comm]
    exact and_congr_right fun hone => by simp [hone]
  simp only [h.collision, hpixel]

/-- A pass of drawing flips the pixels of `Q`, provided none of them was flipped before: a pixel flipped twice would be restored,
and its collision would stay. -/
def Draws (f : Framebuffer × Bool → Framebuffer × Bool) (Q : Set (Fin 32 × Fin 64)) : Prop :=
  ∀ fb P d, Flips fb P d → Disjoint P Q → Flips fb (P ∪ Q) (f d)

theorem Draws.id : Draws (fun d => d) ∅ := fun _ _ _ h _ => by simpa using h

theorem Draws.comp {f g : Framebuffer × Bool → Framebuffer × Bool} {Q R : Set (Fin 32 × Fin 64)} (hg : Draws g R)
    (hf : Draws f Q) (hQR : Disjoint Q R) : Draws (g ∘ f) (Q ∪ R) := by
  intro fb P d h hP
  obtain ⟨hPQ, hPR⟩ := Set.disjoint_union_right.mp hP
  rw [← Set.union_assoc]
  exact hg _ _ _ (hf _ _ _ h hPQ) (Set.disjoint_union_left.mpr ⟨hPR, hQR⟩)

/-- Passes over pairwise disjoint sets flip their union. -/
theorem Draws.foldl_range {f : Nat → Framebuffer × Bool → Framebuffer × Bool} {Q : Nat → Set (Fin 32 × Fin 64)}
    (hf : ∀ k, Draws (f k) (Q k)) : ∀ n, (∀ j k, j < k → k < n → Disjoint (Q j) (Q k)) →
      Draws (fun d => (List.range n).foldl (fun d k => f k d) d) {p | ∃ k < n, p ∈ Q k}
  | 0, _ => by simpa using Draws.id
  | n + 1, hQ => by
    have ih := Draws.foldl_range hf n fun j k hjk hk => hQ j k hjk (Nat.lt_succ_of_lt hk)
    have hdisj : Disjoint {p | ∃ k < n, p ∈ Q k} (Q n) :=
      Set.disjoint_left.mpr fun p ⟨j, hj, hp⟩ => Set.disjoint_left.mp (hQ j n hj n.lt_succ_self) hp
    have hsets : {p | ∃ k < n + 1, p ∈ Q k} = {p | ∃ k < n, p ∈ Q k} ∪ Q n := by
      ext p
      exact Nat.exists_lt_succ_right
    simp only [List.range_succ, List.foldl_append, List.foldl_cons, List.foldl_nil, hsets]
    exact (hf n).comp ih hdisj

/-- The pixel at (row, col), if the bit is 1. -/
def bitPixel (row : Fin 32) (col : Fin 64) (bit : Bool) : Set (Fin 32 × Fin 64) := {p | bit = true ∧ p = (row, col)}

/-- The pixels under a 1 of a sprite byte drawn from column cx. -/
def rowPixels (cx : Nat) (row : Fin 32) (b : Byte) : Set (Fin 32 × Fin 64) :=
  {p | ∃ c < 8, p ∈ bitPixel row (wrapCol (cx + c)) (spriteBit b c)}

theorem drawPixel_draws (row : Fin 32) (col : Fin 64) (bit : Bool) : Draws (drawPixel row col bit) (bitPixel row col bit) := by
  intro fb P d h hP
  cases bit
  case false => simpa [bitPixel, drawPixel_false] using h
  case true =>
    have hfresh : Framebuffer.get d.1 row col = Framebuffer.get fb row col :=
      not_not.mp fun hne => Set.disjoint_left.mp hP ((h.pixel row col).mp hne) ⟨rfl, rfl⟩
    constructor
    · intro r c
      by_cases hrc : r = row ∧ c = col
      · obtain ⟨rfl, rfl⟩ := hrc
        simp [drawPixel, Framebuffer.get_put, hfresh, bitPixel]
      · simp [drawPixel, Framebuffer.get_put, hrc, bitPixel, ← h.pixel]
    · simp [drawPixel, h.collision, hfresh, bitPixel, or_and_right, exists_or, or_comm]

/-- The 8 columns of a row are distinct modulo 64 (rule R113). -/
theorem drawRow_draws (cx : Nat) (row : Fin 32) (b : Byte) : Draws (drawRow cx row b) (rowPixels cx row b) := by
  refine Draws.foldl_range (fun c => drawPixel_draws row (wrapCol (cx + c)) (spriteBit b c)) 8 fun j k hjk hk => ?_
  refine Set.disjoint_left.mpr fun p ⟨_, hj⟩ ⟨_, hk'⟩ => ?_
  have hcol : (cx + j) % 64 = (cx + k) % 64 := congrArg (fun p => p.2.val) (hj.symm.trans hk')
  omega

/-- A sprite of at most 32 rows flips exactly its pixels: its rows are distinct modulo 32 (rule R113). -/
theorem drawSprite_flips (m : Memory) (base cx cy : Nat) {n : Nat} (hn : n ≤ 32) (fb : Framebuffer) :
    Flips fb {p | ∃ r < n, p ∈ rowPixels cx (wrapRow (cy + r)) (Memory.read m (base + r))} (drawSprite m base cx cy n fb) := by
  have hdraws := Draws.foldl_range (fun r => drawRow_draws cx (wrapRow (cy + r)) (Memory.read m (base + r))) n
    fun j k hjk hk => Set.disjoint_left.mpr fun p ⟨_, _, _, hj⟩ ⟨_, _, _, hk'⟩ => by
      have hrow : (cy + j) % 32 = (cy + k) % 32 := congrArg (fun p => p.1.val) (hj.symm.trans hk')
      omega
  have h := hdraws fb ∅ _ (Flips.start fb) (Set.empty_disjoint _)
  rwa [Set.empty_union] at h

theorem underSprite_iff (s : State) (cx cy n : Nat) (row : Fin 32) (col : Fin 64) : UnderSprite s cx cy n row col ↔
    ∃ r < n, (row, col) ∈ rowPixels cx (wrapRow (cy + r)) (Memory.read s.mem (s.base + r)) := by
  simp [UnderSprite, rowPixels, bitPixel, spriteBit, State.readMem, State.base, wrapRow, wrapCol, Fin.ext_iff]

/-- Dxyn flips the pixels under a 1 of the sprite, its coordinates taken from the state before it draws (rules R112, R116). -/
theorem drawn_flips (x y n : Ix) (s : State) :
    Flips s.fb {p | UnderSprite s (s.getV x).toNat (s.getV y).toNat n.val p.1 p.2} (drawn x y n s) := by
  simp only [underSprite_iff]
  exact drawSprite_flips s.mem s.base _ _ (by omega) s.fb

/-! ## How Dxyn ends (40_display.md rule R112, 60_exceptions.md rule R210) -/

theorem raiseFatal_halts (f : Fatal) (s : State) : Halts f s (s.raiseFatal f) :=
  ⟨rfl, ⟨rfl, rfl⟩, (Unchanged.refl _ s).raiseFatal f rfl⟩

/-- A failed read check names the lowest address that does not exist (60_exceptions.md rule R204). -/
theorem loadCheck_some {base n : Nat} {f : Fatal} (h : loadCheck base n = .some f) :
    f = .memoryOutOfRange (max base Config.memSize) ∧ n ≠ 0 ∧ Config.memSize < base + n := by
  obtain ⟨a, ha, rfl⟩ := Option.map_eq_some_iff.mp h
  obtain ⟨rfl, hlt⟩ := firstOutOfRange_some ha
  exact ⟨rfl, by omega, by omega⟩

theorem execDrw_of_inRange (x y : Ix) {n : Ix} {s : State} (h : n.val = 0 ∨ s.I.toNat + n.val ≤ Config.memSize) :
    execDrw x y n s =
      .next (((s.setFb (drawn x y n s).1).setV vf (flagByte (drawn x y n s).2)).setDrawFlag true).complete := by
  rcases execDrw_cases x y n s with ⟨_, h'⟩ | ⟨f, hf, _⟩
  · exact h'
  · cases hf.symm.trans (loadCheck_none.mpr h)

theorem execDrw_of_outOfRange (x y : Ix) {n : Ix} {s : State} (hn : n.val ≠ 0) (h : Config.memSize < s.I.toNat + n.val) :
    execDrw x y n s = .next (s.raiseFatal (.memoryOutOfRange (max s.I.toNat Config.memSize))) := by
  rcases execDrw_cases x y n s with ⟨hc, _⟩ | ⟨f, hf, h'⟩
  · rcases loadCheck_none.mp hc with h0 | hle
    · exact absurd h0 hn
    · exact absurd h (not_lt.mpr hle)
  · rw [h', (loadCheck_some hf).1]
    rfl

/-- Settles O18: each pixel is drawn at most once, so the pixels that differ are the sprite's, and the collision is one of them. -/
theorem drawFlipsExactlyTheSpritePixels : Obligations.DrawFlipsExactlyTheSpritePixels := by
  intro x y n s
  refine ⟨decodeWord_encode (.drw x y n), fun hin => ?_, fun hn hout => ?_⟩
  · have hdrawn := drawn_flips x y n s
    have hframe := (((Unchanged.refl { regs := [15], fb := true, drawFlag := true } s).setFb (drawn x y n s).1 rfl).setV
      (flagByte (drawn x y n s).2) List.mem_cons_self).setDrawFlag true rfl
    refine ⟨_, execDrw_of_inRange x y hin, hdrawn.pixel, fun hcoll => ?_, fun hcoll => ?_, rfl, ⟨rfl, rfl⟩, hframe.complete⟩
    · simp [hdrawn.collision_iff.mpr hcoll, flagByte]
    · simp [Bool.eq_false_iff.mpr (mt hdrawn.collision_iff.mp hcoll), flagByte]
  · exact ⟨_, execDrw_of_outOfRange x y hn hout, raiseFatal_halts _ s⟩

/-- Settles O19: no pixel lies under a 1 of the sprite, so by O18 none changes and none collides. -/
theorem emptySpriteDrawsNothing : Obligations.EmptySpriteDrawsNothing := by
  intro x y n s hempty
  obtain ⟨t, ht, hpixel, _, hvf, hflag, hends, hframe⟩ :=
    (drawFlipsExactlyTheSpritePixels x y n s).2.1 (hempty.imp_right And.left)
  have hnone (row : Fin 32) (col : Fin 64) : ¬ UnderSprite s (s.getV x).toNat (s.getV y).toNat n.val row col := by
    rintro ⟨r, hr, c, _, hbit, _⟩
    rcases hempty with h0 | ⟨_, hzero⟩
    · omega
    · simp [hzero r hr] at hbit
  have hkept (row : Fin 32) (col : Fin 64) : t.pixel row col = s.pixel row col :=
    not_not.mp (mt (hpixel row col).mp (hnone row col))
  refine ⟨t, ht, hvf ?_, hflag, hends, { hframe with fb := fun _ => hkept }⟩
  rintro ⟨row, col, hone, hzero⟩
  cases hone.symm.trans ((hkept row col).symm.trans hzero)

/-- Settles O17: 00E0 ends with the clear framebuffer, whatever was in it. -/
theorem clearScreen : Obligations.ClearScreen :=
  ⟨rfl, fun s => ⟨_, rfl, Framebuffer.get_clear, rfl, ⟨rfl, rfl⟩,
    (((Unchanged.refl _ s).setFb _ rfl).setDrawFlag _ rfl).complete⟩⟩

end Sys2Proof.Machine

/-! # Family 41, control flow -/

namespace Sys2Proof.Machine

/-! ## The depth of the stack (41_control_flow.md rule R125) -/

theorem stackDepth_eq (p : Option Ix) : (stackDepth p : Int) = spNumber p + 1 := by
  cases p with
  | none => rfl
  | some j => rfl

theorem stackDepth_le (p : Option Ix) : stackDepth p ≤ 16 := by
  rcases nextSP_spec p with ⟨_, h⟩ | ⟨_, _, _, h⟩
  · exact h.le
  · exact h.le

/-! ## CALL and RET by the depth of the stack (rules R120, R122) -/

/-- The state a CALL leaves when it pushes entry j (rule R122). -/
def State.called (s : State) (j : Ix) (nnn : Addr12) : State :=
  ((s.setSP (.some j)).setStack j (s.PC + 2)).redirect (extendAddr nnn)

/-- The state a RET leaves when it pops entry j (rule R120). -/
def State.returned (s : State) (j : Ix) : State := (s.setSP (prevSP j)).redirect (s.getStack j)

/-- Below depth 16 a CALL pushes the entry that the depth numbers. -/
theorem exec_call_of_lt (nnn : Addr12) {s : State} (h : stackDepth s.SP < 16) :
    ∃ j, nextSP s.SP = .some j ∧ j.val = stackDepth s.SP ∧ exec (.call nnn) s = .next (s.called j nnn) := by
  rcases nextSP_spec s.SP with ⟨_, hfull⟩ | ⟨j, hj, hval, _⟩
  · omega
  · rcases execCall_cases nnn s with ⟨hnone, _⟩ | ⟨k, hk, hexec⟩
    · cases hj.symm.trans hnone
    · cases hj.symm.trans hk
      exact ⟨j, hj, hval, hexec⟩

theorem exec_call_of_full (nnn : Addr12) {s : State} (h : stackDepth s.SP = 16) :
    exec (.call nnn) s = .next (s.raiseFatal .stackOverflow) := by
  rcases nextSP_spec s.SP with ⟨hnone, _⟩ | ⟨_, _, _, hlt⟩
  · rcases execCall_cases nnn s with ⟨_, hexec⟩ | ⟨k, hk, _⟩
    · exact hexec
    · cases hnone.symm.trans hk
  · omega

theorem exec_ret_of_some {s : State} {j : Ix} (h : s.SP = .some j) : exec .ret s = .next (s.returned j) := by
  rcases execRet_cases s with ⟨hnone, _⟩ | ⟨k, hk, hexec⟩
  · cases h.symm.trans hnone
  · cases h.symm.trans hk
    exact hexec

theorem exec_ret_of_none {s : State} (h : s.SP = .none) : exec .ret s = .next (s.raiseFatal .stackUnderflow) := by
  rcases execRet_cases s with ⟨_, hexec⟩ | ⟨k, hk, _⟩
  · exact hexec
  · cases h.symm.trans hk

theorem called_getStack_self (s : State) (j : Ix) (nnn : Addr12) : (s.called j nnn).getStack j = s.PC + 2 := by
  simp [State.called, State.getStack_setStack]

/-- A CALL keeps every entry but the one it pushes (rule R122). -/
theorem called_frame (s : State) (j : Ix) (nnn : Addr12) : Unchanged { SP := true, stack := [j] } s (s.called j nnn) :=
  (((Unchanged.refl _ s).setSP _ rfl).setStack _ List.mem_cons_self).redirect _

/-- A RET does not clear the entry it pops (10_state.md rule R29). -/
theorem returned_frame (s : State) (j : Ix) : Unchanged { SP := true } s (s.returned j) :=
  ((Unchanged.refl _ s).setSP _ rfl).redirect _

/-- Settles O22: SP is 15 exactly at depth 16, and below that the entry pushed is the one the depth numbers. -/
theorem callPushesTheNextAddress : Obligations.CallPushesTheNextAddress := by
  intro nnn s
  have hdepth := stackDepth_eq s.SP
  have hle := stackDepth_le s.SP
  refine ⟨decodeWord_encode (.call nnn), fun hsp => ?_, fun hsp => ?_⟩
  · obtain ⟨j, _, hval, hexec⟩ := exec_call_of_lt nnn (s := s) (by omega)
    have hnext : spNumber (.some j) = spNumber s.SP + 1 := by simp only [spNumber, hval, hdepth]
    have hpush : ((s.called j nnn).getStack j).toNat = (s.PC.toNat + 2) % 65536 := by
      rw [called_getStack_self, BitVec.toNat_add]
      rfl
    exact ⟨_, j, hexec, rfl, hnext, hpush, toNat_extendAddr nnn, ⟨rfl, rfl⟩, called_frame s j nnn⟩
  · exact ⟨_, exec_call_of_full nnn (by omega), raiseFatal_halts _ s⟩

/-- Settles O23: RET pops the entry the CALL pushed, and lowering SP undoes the push. -/
theorem callThenReturnComesBack : Obligations.CallThenReturnComesBack := by
  intro nnn s t u hlt hcall hsp hstack
  obtain ⟨j, hnext, hval, hexec⟩ := exec_call_of_lt nnn hlt
  cases hexec.symm.trans hcall
  have hpopped : u.getStack j = s.PC + 2 :=
    (congrArg (fun stack => stack[j]) hstack).trans (called_getStack_self s j nnn)
  exact ⟨_, exec_ret_of_some hsp, ⟨hpopped, rfl⟩, prevSP_of_nextSP hnext, congrArg (· + 1) hval⟩

/-! ## What CALL and RET report (rule R125) -/

/-- An outcome is one next state, so it reports one condition. -/
theorem reports_iff {o : Host.Outcome State Fault Refusal} {t : State} {c d : Condition} {flag : Bool}
    (ho : o = .next t) (hc : t.result = .some ⟨c, flag⟩) :
    (∃ u, o = .next u ∧ u.result = .some ⟨d, flag⟩) ↔ d = c := by
  simp [ho, hc, eq_comm]

theorem exec_call_reports_iff (nnn : Addr12) (s : State) (c : Condition) :
    (∃ t, exec (.call nnn) s = .next t ∧ t.result = .some ⟨c, s.drawFlag⟩) ↔
      c = if stackDepth s.SP < 16 then .none else .fatal .stackOverflow := by
  split
  · next h =>
    obtain ⟨_, _, _, hexec⟩ := exec_call_of_lt nnn h
    exact reports_iff hexec rfl
  · next h => exact reports_iff (exec_call_of_full nnn (Nat.le_antisymm (stackDepth_le s.SP) (not_lt.mp h))) rfl

theorem exec_ret_reports_iff (s : State) (c : Condition) :
    (∃ t, exec .ret s = .next t ∧ t.result = .some ⟨c, s.drawFlag⟩) ↔
      c = if 0 < stackDepth s.SP then .none else .fatal .stackUnderflow := by
  cases hsp : s.SP with
  | none => exact reports_iff (exec_ret_of_none hsp) rfl
  | some j =>
    rw [if_pos (show 0 < stackDepth (.some j) from j.val.succ_pos)]
    exact reports_iff (exec_ret_of_some hsp) rfl

/-- Settles O24: the depth is at most 16 by the type of SP, and decides what CALL and RET report. -/
theorem stackBoundsAreReported : Obligations.StackBoundsAreReported := by
  intro nnn s
  have hdepth := stackDepth_eq s.SP
  have hle := stackDepth_le s.SP
  simp only [exec_call_reports_iff, exec_ret_reports_iff]
  refine ⟨⟨by omega, by omega, hdepth⟩, ?_, ?_, ?_, ?_⟩
  · simp
  · simpa using (show stackDepth s.SP = 16 ↔ 16 ≤ stackDepth s.SP by omega)
  · simp [Nat.pos_iff_ne_zero]
  · simp

/-- Settles O20: SP is -1 exactly on the empty stack, and lowering it lowers the depth by one. -/
theorem returnPopsTheStack : Obligations.ReturnPopsTheStack := by
  refine ⟨decodeWord_encode .ret, fun s => ⟨fun j hj => ?_, fun hsp => ?_⟩⟩
  · have hpop : spNumber (prevSP j) = spNumber s.SP - 1 := by
      have hdepth := stackDepth_eq (prevSP j)
      rw [stackDepth_prevSP] at hdepth
      rw [hj, spNumber]
      omega
    exact ⟨_, exec_ret_of_some hj, hpop, ⟨rfl, rfl⟩, returned_frame s j⟩
  · cases h : s.SP with
    | none => exact ⟨_, exec_ret_of_none h, raiseFatal_halts _ s⟩
    | some j =>
      rw [h, spNumber] at hsp
      omega

/-- Settles O21: a jump redirects and does nothing else, and both targets fit in 16 bits. -/
theorem jumpsSetPC : Obligations.JumpsSetPC := by
  intro nnn s
  have hframe (a : Word) : Unchanged {} s (s.redirect a) := (Unchanged.refl {} s).redirect a
  exact ⟨decodeWord_encode (.jp nnn), decodeWord_encode (.jpV0 nnn),
    ⟨_, rfl, toNat_extendAddr nnn, ⟨rfl, rfl⟩, hframe _⟩,
    ⟨_, rfl, toNat_extendAddr_add nnn _, ⟨rfl, rfl⟩, hframe _⟩⟩

end Sys2Proof.Machine

/-! # Family 42, skips -/

namespace Sys2Proof

/-- With a low nibble that is not 0, families 5 and 9 hold no instruction (30_encoding.md rules R86, R87). -/
theorem decodeWord_of_n_ne_zero {w : Word} (hop : w.op = 0x5 ∨ w.op = 0x9) (hn : w.n ≠ 0) :
    decodeWord w = .error (.unknownOpcode w) := by
  rcases hop with hop | hop
  all_goals simp [decodeWord, hop, hn]

theorem Word.n_encodeXYN_ne_zero (op : BitVec 4) (x y : Ix) {n : BitVec 4} (hn : n ≠ 0) : (encodeXYN op x y n).n ≠ 0 := by
  rw [Word.n_encodeXYN]
  exact fun h => hn (congrArg BitVec.ofFin h)

end Sys2Proof

namespace Sys2Proof.Machine

/-- A skip decided by a Bool is a skip on the condition that the Bool says (30_encoding.md rules R97 to R99). -/
theorem skips_of_exec {i : Instr} {s : State} {taken : Bool} {p : Prop}
    (hexec : exec i s = .next (s.skipIf taken).complete) (h : taken = true ↔ p) : Skips i p s := by
  have hframe : Unchanged {} s (s.skipIf taken).complete := ((Unchanged.refl _ s).skipIf taken).complete
  constructor
  · intro hp
    exact ⟨_, hexec, ⟨by rw [State.skipIf_complete_PC, if_pos (h.mpr hp)], rfl⟩, hframe⟩
  · intro hp
    exact ⟨_, hexec, ⟨by rw [State.skipIf_complete_PC, if_neg (mt h.mp hp)], rfl⟩, hframe⟩

/-- Settles O25: each instruction skips on the Bool of its comparison. -/
theorem compareSkips : Obligations.CompareSkips := by
  intro x y kk s
  refine ⟨decodeWord_encode (.seVxKk x kk), decodeWord_encode (.sneVxKk x kk), decodeWord_encode (.seVxVy x y),
    decodeWord_encode (.sneVxVy x y), fun n hn => ⟨?_, ?_⟩, ?_, ?_, ?_, ?_⟩
  · exact decodeWord_of_n_ne_zero (.inl (Word.op_encodeXYN 0x5 x y n)) (Word.n_encodeXYN_ne_zero 0x5 x y hn)
  · exact decodeWord_of_n_ne_zero (.inr (Word.op_encodeXYN 0x9 x y n)) (Word.n_encodeXYN_ne_zero 0x9 x y hn)
  · exact skips_of_exec (skipWhen_next (s.getV x == kk) s) beq_iff_eq
  · exact skips_of_exec (skipWhen_next (s.getV x != kk) s) bne_iff_ne
  · exact skips_of_exec (skipWhen_next (s.getV x == s.getV y) s) beq_iff_eq
  · exact skips_of_exec (skipWhen_next (s.getV x != s.getV y) s) bne_iff_ne

end Sys2Proof.Machine

/-! # Family 43, register loads and ALU -/

namespace Sys2Proof.Machine

/-! ## What an ALU instruction writes, from its result (43_alu.md rules R140, R153) -/

/-- An instruction without a flag outcome writes its result, and VF only when that is its register. -/
theorem writesReg_of_exec {i : Instr} {x : Ix} {b : Byte} {s : State} {value : Byte → Prop}
    (hexec : exec i s = writeV x b s) (hvalue : value b) : WritesReg i x value s :=
  ⟨_, hexec, by simpa using hvalue, ⟨rfl, rfl⟩, ((Unchanged.refl _ s).setV b List.mem_cons_self).complete⟩

/-- A flag instruction leaves its result in V[x] and its flag in VF, or is rejected when the two are one register. -/
theorem writesFlagReg_of_exec {i : Instr} {x : Ix} {r : Byte × Bool} {s : State} {value flag : Nat}
    (hexec : exec i s = writeFlagV i x r s) (hvalue : r.1.toNat = value) (hflag : (flagByte r.2).toNat = flag) :
    WritesFlagReg i (encode i) x value flag s := by
  rcases writeFlagV_cases i x r s with ⟨hx, h⟩ | ⟨hx, h⟩
  · have hvf : (((s.setV vf (flagByte r.2)).setV x r.1).complete.getV vf).toNat = flag := by
      simp [State.getV_setV_other _ _ hx.symm, hflag]
    have hframe : Unchanged { regs := [x, vf] } s ((s.setV vf (flagByte r.2)).setV x r.1).complete :=
      (((Unchanged.refl _ s).setV _ (List.mem_cons_of_mem _ List.mem_cons_self)).setV _ List.mem_cons_self).complete
    exact ⟨fun _ => ⟨_, hexec.trans h, by simpa using hvalue, hvf, ⟨rfl, rfl⟩, hframe⟩, fun hx' => absurd hx' hx⟩
  · exact ⟨fun hx' => absurd hx hx', fun _ => ⟨_, hexec.trans h, ⟨rfl, rfl⟩, (Unchanged.refl _ s).rejectOperand i⟩⟩

/-! ## The flags as numbers (10_state.md rule R23) -/

theorem flagByte_toNat (f : Bool) : (flagByte f).toNat = f.toNat := by
  cases f
  · rfl
  · rfl

theorem flagByte_decide_toNat (p : Prop) [Decidable p] : (flagByte (decide p)).toNat = if p then 1 else 0 := by
  rw [flagByte_toNat, Bool.toNat, Bool.cond_decide]

/-- AND with a power of two, tested against 0, is the bit it selects. -/
theorem and_twoPow_bne_zero {w i : Nat} (a : BitVec w) (hi : i < w) : (a &&& BitVec.twoPow w i != 0) = a.getLsbD i := by
  have hne : BitVec.twoPow w i ≠ 0#w := fun h => by simpa [hi] using congrArg (·.getLsbD i) h
  rw [BitVec.and_twoPow]
  cases a.getLsbD i <;> simp [hne]

/-- The top bit of a byte, as the number that 8xyE leaves in VF. -/
theorem toNat_getLsbD_seven (a : Byte) : (a.getLsbD 7).toNat = a.toNat / 128 := by
  have hmsb : a.getLsbD 7 = decide (128 ≤ a.toNat) := (BitVec.msb_eq_getLsbD_last a).symm.trans (BitVec.msb_eq_decide a)
  have hlt := a.isLt
  rw [hmsb, Bool.toNat, Bool.cond_decide]
  split <;> omega

theorem shiftRight_flag (a : Byte) : (flagByte (shiftRight a).2).toNat = a.toNat % 2 := by
  have hbit : (shiftRight a).2 = a.getLsbD 0 := and_twoPow_bne_zero a (i := 0) (by decide)
  rw [flagByte_toNat, hbit, BitVec.getLsbD, Nat.toNat_testBit, Nat.pow_zero, Nat.div_one]

theorem shiftLeft_flag (a : Byte) : (flagByte (shiftLeft a).2).toNat = a.toNat / 128 := by
  have hbit : (shiftLeft a).2 = a.getLsbD 7 := and_twoPow_bne_zero a (i := 7) (by decide)
  rw [flagByte_toNat, hbit, toNat_getLsbD_seven]

/-! ## The results as numbers (rule R153) -/

theorem subNotBorrow_toNat (a b : Byte) : (subNotBorrow a b).1.toNat = (256 + a.toNat - b.toNat) % 256 := by
  have hb := b.isLt
  have hsub : (subNotBorrow a b).1.toNat = (256 - b.toNat + a.toNat) % 256 := BitVec.toNat_sub a b
  omega

theorem shiftRight_toNat (a : Byte) : (shiftRight a).1.toNat = a.toNat / 2 := by
  simp [shiftRight, Nat.shiftRight_eq_div_pow]

theorem shiftLeft_toNat (a : Byte) : (shiftLeft a).1.toNat = a.toNat * 2 % 256 := by
  simp [shiftLeft, Nat.shiftLeft_eq]

/-! ## The flag instructions (rules R147 to R151) -/

theorem addVxVy_writes (x y : Ix) (s : State) :
    WritesFlagReg (.addVxVy x y) (encodeXYN 0x8 x y 4) x (((s.getV x).toNat + (s.getV y).toNat) % 256)
      (if (s.getV x).toNat + (s.getV y).toNat > 255 then 1 else 0) s :=
  writesFlagReg_of_exec (r := addCarry (s.getV x) (s.getV y)) rfl (BitVec.toNat_add _ _) (flagByte_decide_toNat _)

theorem sub_writes (x y : Ix) (s : State) :
    WritesFlagReg (.sub x y) (encodeXYN 0x8 x y 5) x ((256 + (s.getV x).toNat - (s.getV y).toNat) % 256)
      (if (s.getV x).toNat > (s.getV y).toNat then 1 else 0) s :=
  writesFlagReg_of_exec rfl (subNotBorrow_toNat _ _) (flagByte_decide_toNat _)

theorem subn_writes (x y : Ix) (s : State) :
    WritesFlagReg (.subn x y) (encodeXYN 0x8 x y 7) x ((256 + (s.getV y).toNat - (s.getV x).toNat) % 256)
      (if (s.getV y).toNat > (s.getV x).toNat then 1 else 0) s :=
  writesFlagReg_of_exec rfl (subNotBorrow_toNat _ _) (flagByte_decide_toNat _)

/-- Settles O29: the flag is VF's because x is not 15, and both operands are read before either write. -/
theorem addWithCarry : Obligations.AddWithCarry := fun x y s =>
  ⟨decodeWord_encode (.addVxVy x y), addVxVy_writes x y s⟩

/-- Settles O30: one subtraction with its strict comparison, in the two orders of the operands. -/
theorem subtractWithStrictNotBorrow : Obligations.SubtractWithStrictNotBorrow := fun x y s =>
  ⟨decodeWord_encode (.sub x y), decodeWord_encode (.subn x y), sub_writes x y s, subn_writes x y s⟩

/-- Settles O31: the result and the flag are those of V[x] alone. -/
theorem shiftsByOne : Obligations.ShiftsByOne := fun x y _ =>
  ⟨decodeWord_encode (.shr x y), decodeWord_encode (.shl x y),
    writesFlagReg_of_exec rfl (shiftRight_toNat _) (shiftRight_flag _),
    writesFlagReg_of_exec rfl (shiftLeft_toNat _) (shiftLeft_flag _)⟩

/-! ## The instructions without a flag (rules R141 to R146, R152) -/

/-- Settles O27: V[x] is written and no flag is. -/
theorem immediateLoadAndAdd : Obligations.ImmediateLoadAndAdd := fun x kk _ =>
  ⟨decodeWord_encode (.ldVxKk x kk), decodeWord_encode (.addVxKk x kk),
    writesReg_of_exec rfl rfl, writesReg_of_exec rfl (BitVec.toNat_add _ _)⟩

/-- Settles O28: each logic instruction combines the two operands bit by bit. -/
theorem copyAndLogic : Obligations.CopyAndLogic := by
  intro x y s
  refine ⟨decodeWord_encode (.ldVxVy x y), decodeWord_encode (.or x y), decodeWord_encode (.and x y),
    decodeWord_encode (.xor x y), writesReg_of_exec rfl rfl, writesReg_of_exec rfl fun b _ => ?_,
    writesReg_of_exec rfl fun b _ => ?_, writesReg_of_exec rfl fun b _ => ?_⟩
  · rw [BitVec.getLsbD_or, Bool.or_eq_true]
  · rw [BitVec.getLsbD_and, Bool.and_eq_true]
  · rw [BitVec.getLsbD_xor, Bool.xor_iff_ne]

/-- Settles O33: each operation of a byte with itself; twice a byte exceeds 255 exactly when its bit 7 is set. -/
theorem sameRegisterTwice : Obligations.SameRegisterTwice := by
  intro x s
  have hself (a : Nat) : (256 + a - a) % 256 = 0 := by omega
  refine ⟨writesReg_of_exec rfl rfl, writesReg_of_exec rfl BitVec.or_self, writesReg_of_exec rfl BitVec.and_self,
    writesReg_of_exec rfl BitVec.xor_self, ?_, ?_, ?_⟩
  · have hcarry : (if (s.getV x).toNat + (s.getV x).toNat > 255 then 1 else 0) = ((s.getV x).getLsbD 7).toNat := by
      have hlt := (s.getV x).isLt
      rw [toNat_getLsbD_seven]
      split <;> omega
    rw [two_mul, ← hcarry]
    exact addVxVy_writes x x s
  · simpa [hself] using sub_writes x x s
  · simpa [hself] using subn_writes x x s

/-- Settles O34: a masked byte has only bits of its mask, whatever the free byte is. -/
theorem randomByteMasked : Obligations.RandomByteMasked := by
  intro x kk s
  have hv : ((s.drawRnd.setV x (s.nextRnd &&& kk)).complete).getV x = Config.rnd s.draws &&& kk := by simp [State.nextRnd]
  refine ⟨decodeWord_encode (.rnd x kk), _, rfl, hv, fun b hb => ?_, fun hkk => ?_, fun hkk => ?_, rfl, ⟨rfl, rfl⟩,
    (((Unchanged.refl _ s).drawRnd rfl).setV _ List.mem_cons_self).complete⟩
  · rw [hv, BitVec.getLsbD_and, Bool.and_eq_true] at hb
    exact hb.2
  · rw [hv, hkk]
    exact BitVec.and_allOnes
  · rw [hv, hkk]
    exact BitVec.and_zero

end Sys2Proof.Machine

/-! # Family 44, the index register and memory transfers -/

namespace Sys2Proof.Machine

/-! ## Writes of I (44_index_memory.md rules R170, R171, R174) -/

theorem toNat_extendByte (b : Byte) : (extendByte b).toNat = b.toNat := by
  unfold extendByte
  bv_omega

/-- Fx29 cannot wrap: 0xFF * 5 has 16 bits. -/
theorem toNat_extendByte_mul_five (b : Byte) : (extendByte b * 5).toNat = b.toNat * 5 := by
  unfold extendByte
  bv_omega

theorem writesI_of_exec {i : Instr} {a : Word} {value : Nat} {s : State} (hexec : exec i s = writeI a s)
    (hvalue : a.toNat = value) : WritesI i value s :=
  ⟨_, hexec, hvalue, ⟨rfl, rfl⟩, ((Unchanged.refl _ s).setI a rfl).complete⟩

/-- Settles O35: each instruction writes one word to I, and only the sum of Fx1E wraps. -/
theorem indexRegisterWrites : Obligations.IndexRegisterWrites := by
  intro nnn x s
  have hsum : (s.I + extendByte (s.getV x)).toNat = (s.I.toNat + (s.getV x).toNat) % 65536 := by
    rw [BitVec.toNat_add, toNat_extendByte]
  exact ⟨decodeWord_encode (.ldI nnn), decodeWord_encode (.addIVx x), decodeWord_encode (.ldFVx x),
    writesI_of_exec rfl (toNat_extendAddr nnn), writesI_of_exec rfl hsum, writesI_of_exec rfl (toNat_extendByte_mul_five _)⟩

/-! ## The checks that fail, with the lowest offending address (20_memory.md rules R55, R57) -/

theorem firstOutOfRange_of_lt {base n : Nat} (hn : n ≠ 0) (h : Config.memSize < base + n) :
    firstOutOfRange base n = .some (max base Config.memSize) := by
  cases hfirst : firstOutOfRange base n with
  | none =>
    rcases firstOutOfRange_none.mp hfirst with h0 | hle
    · exact absurd h0 hn
    · exact absurd h (not_lt.mpr hle)
  | some a => rw [(firstOutOfRange_some hfirst).1]

theorem firstProtected_of_lt {base n : Nat} (hn : n ≠ 0) (h : base < Config.programBase) :
    firstProtected base n = .some base := by
  cases hfirst : firstProtected base n with
  | none =>
    rcases firstProtected_none.mp hfirst with h0 | hle
    · exact absurd h0 hn
    · exact absurd h (not_lt.mpr hle)
  | some a => rw [(firstProtected_some hfirst).1]

theorem loadCheck_of_outOfRange {base n : Nat} (hn : n ≠ 0) (h : Config.memSize < base + n) :
    loadCheck base n = .some (.memoryOutOfRange (max base Config.memSize)) := by
  rw [loadCheck, firstOutOfRange_of_lt hn h, Option.map_some]

theorem storeCheck_of_outOfRange {base n : Nat} (hn : n ≠ 0) (h : Config.memSize < base + n) :
    storeCheck base n = .some (.memoryOutOfRange (max base Config.memSize)) := by
  rw [storeCheck, firstOutOfRange_of_lt hn h]

theorem storeCheck_of_protected {base n : Nat} (hn : n ≠ 0) (hlow : base < Config.programBase)
    (hend : base + n ≤ Config.memSize) : storeCheck base n = .some (.protectedWrite base) := by
  rw [storeCheck, firstOutOfRange_none.mpr (.inr hend), firstProtected_of_lt hn hlow, Option.map_some]

/-! ## Stores at I (44_index_memory.md rules R175, R176) -/

theorem storeAtI_of_inRange {bytes : List Byte} {s : State} (hbase : Config.programBase ≤ s.base)
    (hend : s.base + bytes.length ≤ Config.memSize) :
    storeAtI bytes s = .next (s.setMem (Memory.writeList s.mem s.base bytes)).complete := by
  rw [storeAtI, storeCheck_none.mpr (.inr ⟨hbase, hend⟩)]

theorem storeAtI_of_check {bytes : List Byte} {s : State} {f : Fatal} (h : storeCheck s.base bytes.length = .some f) :
    storeAtI bytes s = .next (s.raiseFatal f) := by
  rw [storeAtI, h]

/-- A store at I of 1 to 16 bytes writes them, or names the lowest offending address. It is too short to meet both faults. -/
theorem storesAtI_of_exec {i : Instr} {bytes : List Byte} {byte : Nat → Nat} {s : State}
    (hexec : exec i s = storeAtI bytes s) (hwf : Memory.wf s.mem = true) (hne : bytes.length ≠ 0) (hlen : bytes.length ≤ 16)
    (hbyte : ∀ (k : Nat) (hk : k < bytes.length), bytes[k].toNat = byte k) : StoresAtI i bytes.length byte s := by
  refine ⟨fun hbase hend => ?_, fun hout => ?_, fun hlow => ?_⟩
  · refine ⟨_, hexec.trans (storeAtI_of_inRange hbase hend), fun k hk => ?_, ⟨rfl, rfl⟩,
      ((Unchanged.refl _ s).setMem fun _ => Memory.read_writeList_outside bytes).complete⟩
    rw [← hbyte k hk]
    exact congrArg BitVec.toNat (Memory.read_writeList_at bytes k hk hwf)
  · exact ⟨_, hexec.trans (storeAtI_of_check (storeCheck_of_outOfRange hne hout)), raiseFatal_halts _ s⟩
  · have hend : s.base + bytes.length ≤ Config.memSize := calc
      s.I.toNat + bytes.length ≤ 0x200 + 16 := Nat.add_le_add hlow.le hlen
      _ ≤ 0x1000 := by decide
    exact ⟨_, hexec.trans (storeAtI_of_check (storeCheck_of_protected hne hlow hend)), raiseFatal_halts _ s⟩

theorem decimalDigits_length (v : Byte) : (decimalDigits v).length = 3 := rfl

/-- The bytes hold the digits: no digit reaches 10, so none is cut. -/
theorem decimalDigits_toNat (v : Byte) (k : Nat) (hk : k < (decimalDigits v).length) :
    (decimalDigits v)[k].toNat = if k = 0 then v.toNat / 100 else if k = 1 then v.toNat / 10 % 10 else v.toNat % 10 := by
  have hlt := v.isLt
  match k, hk with
  | 0, _ => exact Nat.mod_eq_of_lt (by omega)
  | 1, _ => exact Nat.mod_eq_of_lt (by omega)
  | 2, _ => exact Nat.mod_eq_of_lt (by omega)

/-- Settles O36: the three digits are the bytes stored at I. -/
theorem storeDecimalDigits : Obligations.StoreDecimalDigits := by
  intro x s hwf
  have hlen := decimalDigits_length (s.getV x)
  exact ⟨decodeWord_encode (.ldBVx x),
    storesAtI_of_exec rfl hwf (by omega) (by omega) (decimalDigits_toNat (s.getV x))⟩

/-- Settles O37: V[0] to V[x] are the bytes stored at I, in order. -/
theorem storeRegisters : Obligations.StoreRegisters := by
  intro x s hwf
  have hlen : ((regsUpTo x).map s.getV).length = x.val + 1 := by rw [List.length_map, regsUpTo_length]
  have hbyte (k : Nat) (hk : k < ((regsUpTo x).map s.getV).length) :
      ((regsUpTo x).map s.getV)[k].toNat = (s.getV (Fin.ofNat 16 k)).toNat := by
    rw [List.length_map] at hk
    have hreg : (regsUpTo x)[k] = Fin.ofNat 16 k := by
      rw [← Fin.ofNat_val_eq_self (regsUpTo x)[k], regsUpTo_getElem x k hk]
    rw [List.getElem_map, hreg]
  have hstores := storesAtI_of_exec (i := .ldMemVx x) rfl hwf (by omega) (by omega) hbyte
  rw [hlen] at hstores
  exact ⟨decodeWord_encode (.ldMemVx x), hstores⟩

/-! ## Loads from I (rule R177) -/

theorem loadRegs_PC (m : Memory) (base : Nat) (ks : List Ix) (s : State) : (loadRegs m base ks s).PC = s.PC := by
  rw [loadRegs_eq]

theorem execLdVxMem_of_inRange {x : Ix} {s : State} (h : s.base + (x.val + 1) ≤ Config.memSize) :
    execLdVxMem x s = .next (loadRegs s.mem s.base (regsUpTo x) s).complete := by
  rw [execLdVxMem, loadCheck_none.mpr (.inr h)]

theorem execLdVxMem_of_outOfRange {x : Ix} {s : State} (h : Config.memSize < s.base + (x.val + 1)) :
    execLdVxMem x s = .next (s.raiseFatal (.memoryOutOfRange (max s.base Config.memSize))) := by
  rw [execLdVxMem, loadCheck_of_outOfRange x.val.succ_ne_zero h]

/-- Settles O38: the registers loaded are those of the list, each from its own address. -/
theorem loadRegisters : Obligations.LoadRegisters := by
  intro x s
  refine ⟨decodeWord_encode (.ldVxMem x), fun hin => ?_, fun hout => ?_⟩
  · refine ⟨_, execLdVxMem_of_inRange hin, fun k hk => ?_, ⟨congrArg (· + 2) (loadRegs_PC _ _ _ s), rfl⟩,
      ((Unchanged.refl _ s).loadRegs _ _ _ fun _ hk => hk).complete, mem_regsUpTo x⟩
    exact (getV_loadRegs s.mem s.base k (regsUpTo x) s).trans (if_pos ((mem_regsUpTo x k).mpr hk))
  · exact ⟨_, execLdVxMem_of_outOfRange (Nat.lt_succ_of_le hout), raiseFatal_halts _ s⟩

/-! ## A store and a load of the same registers (rule R178) -/

theorem Halts.result_ne_none {f : Fatal} {s t : State} (h : Halts f s t) : t.result ≠ .some ⟨.none, t.drawFlag⟩ := by
  obtain ⟨_, ⟨_, hresult⟩, _⟩ := h
  simp [hresult]

/-- A store at I that completed had all its addresses in 0x200-0xFFF. -/
theorem StoresAtI.inRange_of_completes {i : Instr} {n : Nat} {byte : Nat → Nat} {s t : State} (h : StoresAtI i n byte s)
    (hexec : exec i s = .next t) (hdone : t.result = .some ⟨.none, t.drawFlag⟩) :
    0x200 ≤ s.I.toNat ∧ s.I.toNat + n ≤ 0x1000 := by
  obtain ⟨_, hout, hlow⟩ := h
  constructor
  · exact not_lt.mp fun hlt => (next_of_exists (hlow hlt) hexec).result_ne_none hdone
  · exact not_lt.mp fun hlt => (next_of_exists (hout hlt) hexec).result_ne_none hdone

/-- Settles O39: by O37 the store left V[k] at I + k, and by O38 the load reads it there. -/
theorem storeThenLoadRestoresRegisters : Obligations.StoreThenLoadRestoresRegisters := by
  intro x s t u hwf hstore hdone hmem hI
  obtain ⟨_, hstores⟩ := storeRegisters x s hwf
  obtain ⟨hbase, hend⟩ := hstores.inRange_of_completes hstore hdone
  obtain ⟨hstored, _⟩ := hstores
  obtain ⟨hbytes, _, hframe⟩ := next_of_exists (hstored hbase hend) hstore
  have huI : u.I = s.I := hI.trans (hframe.I rfl)
  obtain ⟨_, hloads, _⟩ := loadRegisters x u
  obtain ⟨v, hload, hv, _⟩ := hloads (huI ▸ hend)
  refine ⟨v, hload, fun k hk => BitVec.eq_of_toNat_eq ?_⟩
  calc (v.getV k).toNat = (t.readMem (s.base + k.val)).toNat := by
        rw [hv k hk, huI, State.readMem, hmem, State.readMem, State.base]
    _ = (s.getV (Fin.ofNat 16 k.val)).toNat := hbytes k.val (Nat.lt_succ_of_le hk)
    _ = (s.getV k).toNat := by rw [Fin.ofNat_val_eq_self]

end Sys2Proof.Machine

/-! # Family 45, keys and timers -/

namespace Sys2Proof.Machine

/-! ## A wait stands at its Fx0A (45_keys_timers.md rules R193, R194) -/

/-- A waiting step that waits on has only reported: a pressed key would have ended the wait (rule R194). -/
theorem waitStep_eq_report_of_waitKey {x y : Ix} {s : State} (h : (waitStep x s).run = .waitKey y) :
    waitStep x s = s.report (.waitingForKey x) := by
  rcases waitStep_cases x s with ⟨k, _, hstep⟩ | ⟨_, hstep⟩
  · rw [hstep] at h
    cases h
  · exact hstep

/-- Fx0A is the only instruction that enters a wait, and it does nothing else (rule R193). -/
theorem exec_enters_wait {i : Instr} {s t : State} {x : Ix} (hrun : s.run = .run) (h : exec i s = .next t)
    (hx : t.run = .waitKey x) : i = .ldVxK x ∧ t = (s.setRun (.waitKey x)).report (.waitingForKey x) := by
  rcases next_of_exists (exec_cases i s) h with ⟨_, hkeep⟩ | ⟨_, rfl⟩ | ⟨f, rfl⟩ | ⟨y, rfl, _, rfl⟩
  · cases (hkeep.trans hrun).symm.trans hx
  · cases hrun.symm.trans hx
  · cases hx
  · cases hx
    exact ⟨rfl, rfl⟩

/-- A step that ends waiting for x leaves the word at PC alone, and either waited for x before or executed an Fx0A naming x. -/
theorem step_ends_waiting {s t : State} {x : Ix} (h : step s = .next t) (hx : t.run = .waitKey x) :
    t.result.isSome = true ∧ fetch t = fetch s ∧
      (s.run = .waitKey x ∨ ∃ w, fetch s = .ok w ∧ decodeWord w = .ok (.ldVxK x)) := by
  rcases step_cases s with ⟨c, hc, h'⟩ | ⟨y, hy, h'⟩ | ⟨_, f, _, h'⟩ | ⟨hrun, w, _, _, _, h'⟩ | ⟨hrun, w, i, hf, hd, h'⟩
  case inr.inr.inr.inr =>
    obtain ⟨rfl, rfl⟩ := exec_enters_wait hrun (h'.symm.trans h) hx
    exact ⟨rfl, rfl, .inr ⟨w, hf, hd⟩⟩
  all_goals cases h'.symm.trans h
  · cases hc.symm.trans hx
  · have hkeep := waitStep_eq_report_of_waitKey hx
    rw [hkeep] at hx ⊢
    exact ⟨rfl, rfl, .inl hx⟩
  · cases hx
  · cases hrun.symm.trans hx

/-- Settles O46: the Fx0A of the wait is the one that was there before the step, or the one that the step executed. -/
theorem stepKeepsTheWaitAtItsInstruction : Obligations.StepKeepsTheWaitAtItsInstruction := by
  intro s t hs h x hx
  obtain ⟨hresult, hfetch, hwaited | hexecuted⟩ := step_ends_waiting h hx
  · obtain ⟨_, hwasThere⟩ := hs x hwaited
    exact ⟨hresult, hfetch ▸ hwasThere⟩
  · exact ⟨hresult, hfetch ▸ hexecuted⟩

/-! ## The key skips (rules R190, R191) -/

theorem skipOnKey_of_key {x k : Ix} {s : State} (wanted : Bool) (h : (s.getV x).toNat = k.val) :
    skipOnKey x wanted s = .next (s.skipIf (s.pressed k == wanted)).complete := by
  rw [skipOnKey, keyIndex_some.mpr h]

theorem skipOnKey_of_noKey {x : Ix} {s : State} (wanted : Bool) (h : 15 < (s.getV x).toNat) :
    skipOnKey x wanted s = .next (s.raiseFatal (.keyOutOfRange (s.getV x))) := by
  rw [skipOnKey, keyIndex_none.mpr h]

/-- Settles O26: V[x] names a key, whose state decides the skip, or is above 0xF. -/
theorem keySkips : Obligations.KeySkips := by
  intro x s
  refine ⟨decodeWord_encode (.skp x), decodeWord_encode (.sknp x), fun k hk => ⟨?_, ?_⟩, fun hout => ⟨?_, ?_⟩⟩
  · exact skips_of_exec (skipOnKey_of_key true hk) (by simp [State.pressed])
  · exact skips_of_exec (skipOnKey_of_key false hk) (by simp [State.pressed])
  · exact ⟨_, skipOnKey_of_noKey true hout, raiseFatal_halts _ s⟩
  · exact ⟨_, skipOnKey_of_noKey false hout, raiseFatal_halts _ s⟩

/-! ## The key that Fx0A takes (rules R193, R195) -/

/-- There is one least pressed key, so a pressed key with none below it is the one found. -/
theorem leastPressed_of_least {s : State} {k : Ix} (hk : s.getKey k ≠ 0) (hleast : ∀ j < k, s.getKey j = 0) :
    s.leastPressed = .some k := by
  cases hfound : s.leastPressed with
  | none => exact absurd (leastPressed_none.mp hfound k) hk
  | some j =>
    obtain ⟨hj, hjleast⟩ := leastPressed_some hfound
    have hkj : k ≤ j := not_lt.mp fun hlt => hj (hleast j hlt)
    have hjk : j ≤ k := not_lt.mp fun hlt => hk (hjleast k hlt)
    rw [le_antisymm hjk hkj]

theorem keyCode_toNat (k : Ix) : (keyCode k).toNat = k.val := Nat.mod_eq_of_lt (by omega)

theorem execLdVxK_of_key {x k : Ix} {s : State} (h : s.leastPressed = .some k) :
    execLdVxK x s = writeV x (keyCode k) s := by
  rw [execLdVxK, h, writeV_next]

theorem execLdVxK_of_noKey {x : Ix} {s : State} (h : s.leastPressed = .none) :
    execLdVxK x s = .next ((s.setRun (.waitKey x)).report (.waitingForKey x)) := by
  rw [execLdVxK, h]

/-- Settles O42: a pressed key is written as by a register load, and without one only the run state changes. -/
theorem keyLoadOrWait : Obligations.KeyLoadOrWait := by
  intro x s
  refine ⟨decodeWord_encode (.ldVxK x), fun k hk hleast => ?_, fun hnone => ?_⟩
  · exact writesReg_of_exec (execLdVxK_of_key (leastPressed_of_least hk hleast)) (keyCode_toNat k)
  · exact ⟨_, execLdVxK_of_noKey (leastPressed_none.mpr hnone), rfl, ⟨rfl, rfl⟩, ((Unchanged.refl _ s).setRun _ rfl).report _⟩

/-! ## The timers (rules R192, R196 to R198) -/

/-- DT is in the footprint of Fx15 alone (rule R196). -/
theorem exec_DT_cases {i : Instr} {s t : State} (h : exec i s = .next t) :
    t.DT = s.DT ∨ ∃ x, i = .ldDtVx x ∧ t.DT = s.getV x := by
  cases i
  case ldDtVx x =>
    cases h
    exact .inr ⟨x, rfl, rfl⟩
  all_goals exact .inl ((everyInstructionKeepsItsFrame _ s t h).DT rfl)

/-- ST is in the footprint of Fx18 alone (rule R197). -/
theorem exec_ST_cases {i : Instr} {s t : State} (h : exec i s = .next t) :
    t.ST = s.ST ∨ ∃ x, i = .ldStVx x ∧ t.ST = s.getV x := by
  cases i
  case ldStVx x =>
    cases h
    exact .inr ⟨x, rfl, rfl⟩
  all_goals exact .inl ((everyInstructionKeepsItsFrame _ s t h).ST rfl)

/-- Settles O50: a step that executes no instruction has no timer in its frame, and an instruction has one only in Fx15 and Fx18. -/
theorem noStepDecrementsATimer : Obligations.NoStepDecrementsATimer := by
  intro s t h
  rcases step_executes_or_frame h with ⟨w, i, hrun, hf, hd, hi⟩ | hu
  · constructor
    · exact (exec_DT_cases hi).imp_right fun ⟨x, hx, hDT⟩ => ⟨w, x, hrun, hf, hx ▸ hd, hDT⟩
    · exact (exec_ST_cases hi).imp_right fun ⟨x, hx, hST⟩ => ⟨w, x, hrun, hf, hx ▸ hd, hST⟩
  · exact ⟨.inl (hu.DT rfl), .inl (hu.ST rfl)⟩

/-- Settles O41: each instruction is one write, of the register or of the timer. -/
theorem timerReadsAndWrites : Obligations.TimerReadsAndWrites := fun x s =>
  ⟨decodeWord_encode (.ldVxDt x), decodeWord_encode (.ldDtVx x), decodeWord_encode (.ldStVx x),
    writesReg_of_exec rfl rfl,
    ⟨_, rfl, rfl, ⟨rfl, rfl⟩, ((Unchanged.refl _ s).setDT _ rfl).complete⟩,
    ⟨_, rfl, rfl, ⟨rfl, rfl⟩, ((Unchanged.refl _ s).setST _ rfl).complete⟩⟩

end Sys2Proof.Machine

/-! # Family 60, exceptions: the operations of the host -/

namespace Sys2Proof.Machine

/-! ## The keys and drawFlag (60_exceptions.md rules R222, R223) -/

/-- Settles O57: each operation is the one write it names. -/
theorem keyWritesAndDrawFlagClear : Obligations.KeyWritesAndDrawFlagClear := fun k v s =>
  ⟨⟨s.hostSetKey k v, rfl, (s.getKey_setKey k k v).trans (if_pos rfl),
      fun l hl => (s.getKey_setKey k l v).trans (if_neg hl), rfl⟩,
    ⟨s.hostClearDrawFlag, rfl, rfl, rfl⟩⟩

/-! ## load (rule R225) -/

theorem State.loadAllowed_iff (s : State) : s.loadAllowed = true ↔ s.result = .none ∧ s.loaded = false := by
  simp [State.loadAllowed]

theorem State.loadAllowed_eq_false_iff (s : State) : s.loadAllowed = false ↔ s.result ≠ .none ∨ s.loaded = true := by
  rw [← Bool.not_eq_true, s.loadAllowed_iff, not_and_or, Bool.not_eq_false]

theorem State.hostLoad_of_fits {s : State} {bytes : List Byte} (hallowed : s.loadAllowed = true)
    (hfits : bytes.length ≤ Config.maxProgram) : s.hostLoad bytes =
      .next ({ s.setMem (Memory.writeList s.mem Config.programBase bytes) with loaded := true }, .ok) := by
  rw [State.hostLoad, if_pos hallowed, if_neg (not_lt.mpr hfits)]

theorem State.hostLoad_of_tooLarge {s : State} {bytes : List Byte} (hallowed : s.loadAllowed = true)
    (hlarge : Config.maxProgram < bytes.length) : s.hostLoad bytes = .next (s, .programTooLarge) := by
  rw [State.hostLoad, if_pos hallowed, if_pos hlarge]

theorem State.hostLoad_of_late {s : State} (bytes : List Byte) (hlate : s.loadAllowed = false) :
    s.hostLoad bytes = .refused .lateLoad := by
  rw [State.hostLoad, if_neg (Bool.eq_false_iff.mp hlate)]

/-- Settles O58: one equation of load per clause; what memory then holds is the law of a store of several bytes. -/
theorem loadCopiesTheImage : Obligations.LoadCopiesTheImage := by
  intro s bytes hwf
  refine ⟨fun hfirst honce hfits => ?_, fun hfirst honce hlarge => ?_, fun hlate => ?_⟩
  · exact ⟨_, State.hostLoad_of_fits (s.loadAllowed_iff.mpr ⟨hfirst, honce⟩) hfits,
      fun k hk => Memory.read_writeList_at bytes k hk hwf, fun _ ha => Memory.read_writeList_outside bytes ha, rfl⟩
  · exact State.hostLoad_of_tooLarge (s.loadAllowed_iff.mpr ⟨hfirst, honce⟩) hlarge
  · exact State.hostLoad_of_late bytes (s.loadAllowed_eq_false_iff.mpr hlate)

/-! ## Every host operation keeps the invariant -/

/-- A load that is not refused comes before the first step, and writes at most memory and the mark that it was made. -/
theorem runEvent_load_next {bytes : List Byte} {s t : State} (h : runEvent (.load bytes) s = .next t) :
    s.result = .none ∧ t = { s with mem := t.mem, loaded := t.loaded } := by
  rcases s.hostLoad_cases bytes with ⟨hallowed, _, h'⟩ | ⟨hallowed, _, h'⟩ | ⟨_, h'⟩
  all_goals simp only [runEvent, h', Host.Outcome.next.injEq, reduceCtorEq] at h
  all_goals
    obtain ⟨hfirst, _⟩ := s.loadAllowed_iff.mp hallowed
    subst h
    exact ⟨hfirst, rfl⟩

/-- A waiting block has taken a step, so a block before its first step does not wait: a load cannot overwrite the Fx0A of a
wait. -/
theorem State.WaitInv.run_ne_waitKey {s : State} (hs : s.WaitInv) (hfirst : s.result = .none) (x : Ix) : s.run ≠ .waitKey x := by
  intro hx
  obtain ⟨hresult, _⟩ := hs x hx
  simp [hfirst] at hresult

theorem runEvent_load_keeps_Inv {bytes : List Byte} {s t : State} (hs : s.Inv) (h : runEvent (.load bytes) s = .next t) :
    t.Inv := by
  obtain ⟨hmem, haddr, hwait⟩ := hs
  obtain ⟨hfirst, hframe⟩ := runEvent_load_next h
  refine ⟨hmem.of_programWrite (runEvent_load_programWrite h), ?_, fun x hx => ?_⟩
  · rw [hframe]
    exact haddr
  · rw [hframe] at hx
    exact absurd hx (hwait.run_ne_waitKey hfirst x)

/-- Reset establishes the invariant, from any state (rule R226). -/
theorem State.hostReset_Inv (s : State) : s.hostReset.Inv := by
  have hwait (x : Ix) : s.hostReset.run ≠ .waitKey x := RunState.noConfusion
  have hstack (j : Ix) : s.hostReset.getStack j = 0 := Vector.getElem_replicate _
  refine ⟨⟨Memory.wf_reset, Memory.inSpace_reset, fun _ _ => rfl⟩, ⟨(by decide : State.reset.PC.toNat ≤ 0x10FE), fun j => ?_, ?_⟩, ?_⟩
  · rw [hstack]
    decide
  · exact fun x hx => absurd hx (hwait x)
  · exact fun x hx => absurd hx (hwait x)

/-- Settles O47: reset establishes the invariant, a load keeps it, and the other operations write nothing it speaks of. -/
theorem hostOperationsKeepTheInvariant : Obligations.HostOperationsKeepTheInvariant := by
  intro e s t he hs h
  cases e with
  | step => exact absurd rfl he
  | tick | setKey _ _ | clearDrawFlag =>
    cases h
    exact hs
  | load _ => exact runEvent_load_keeps_Inv hs h
  | reset =>
    cases h
    exact s.hostReset_Inv

end Sys2Proof.Machine

/-! # Family 70, reset -/

namespace Sys2Proof.Machine

/-! ## What reset leaves (70_reset_and_hazards.md rule R240) -/

theorem State.hostReset_reset : State.reset.hostReset = State.reset := rfl

/-- Settles O43: reset establishes the invariant from any state, the reset state included. -/
theorem resetMeetsTheInvariant : Obligations.ResetMeetsTheInvariant :=
  (State.hostReset_reset ▸ State.reset.hostReset_Inv : State.reset.Inv)

theorem font_length : font.length = 80 := rfl

theorem font_getElem?_of_lt {a : Nat} (h : a < 0x50) : font[a]? = .some (resetByte a) := by
  have ha : a < font.length := font_length ▸ h
  rw [resetByte, List.getD_eq_getElem font 0 ha, List.getElem?_eq_getElem ha]

theorem resetByte_of_le {a : Nat} (h : 0x50 ≤ a) : resetByte a = 0 := List.getD_eq_default font 0 (font_length.trans_le h)

/-- Settles O54: reset memory lists no byte, so it reads as FONT and then as 0; every array is one value repeated. -/
theorem resetValues : Obligations.ResetValues :=
  ⟨fun _ => font_getElem?_of_lt, fun _ => resetByte_of_le, font_length, fun _ => Vector.getElem_replicate _, rfl, rfl, rfl,
    fun _ => Vector.getElem_replicate _, rfl, rfl, rfl, rfl, Framebuffer.get_clear, fun _ => Vector.getElem_replicate _⟩

/-! ## The walk over unloaded memory (rule R244) -/

theorem decodeWord_zero : decodeWord 0 = .error (.unknownOpcode 0) := rfl

/-- Two zero bytes make the word 0, which no row of the opcode table selects (30_encoding.md rules R87, R88). -/
theorem step_of_zero_bytes {s : State} (hrun : s.run = .run) (hpc : s.PC.toNat + 1 < Config.memSize)
    (hhi : s.readMem s.PC.toNat = 0) (hlo : s.readMem (s.PC.toNat + 1) = 0) : step s = .next (unknownOpcode 0 s) := by
  have hfetch : fetch s = .ok 0 := by
    rw [fetch_of_lt hpc, hhi, hlo]
    rfl
  exact step_of_decode_error hrun hfetch decodeWord_zero

/-- The reset state after n steps of the walk, but for what the last of them reported. -/
def State.walked (n : Nat) (result : Option StepResult) : State :=
  { State.reset with PC := BitVec.ofNat 16 (0x200 + 2 * n), result := result }

theorem State.walked_zero : State.walked 0 .none = State.reset := rfl

theorem State.walked_PC {n : Nat} (hn : n ≤ 1792) (result : Option StepResult) :
    (State.walked n result).PC.toNat = 0x200 + 2 * n := by
  rw [State.walked, BitVec.toNat_ofNat]
  omega

theorem State.walked_readMem {a : Nat} (ha : 0x50 ≤ a) (n : Nat) (result : Option StepResult) :
    (State.walked n result).readMem a = 0 :=
  resetByte_of_le ha

theorem State.unknownOpcode_walked (w : Word) (n : Nat) (result : Option StepResult) :
    unknownOpcode w (State.walked n result) = State.walked (n + 1) (.some ⟨.unknownOpcode w, false⟩) := by
  have hpc : (State.walked n result).PC + 2 = BitVec.ofNat 16 (0x200 + 2 * (n + 1)) := (BitVec.ofNat_add ..).symm
  simp only [unknownOpcode, State.advance, hpc]
  rfl

theorem step_walked {n : Nat} (hn : n < 1792) (result : Option StepResult) :
    step (State.walked n result) = .next (State.walked (n + 1) (.some ⟨.unknownOpcode 0, false⟩)) := by
  have hpc := State.walked_PC hn.le result
  rw [← State.unknownOpcode_walked 0 n result]
  have hfits : (State.walked n result).PC.toNat + 1 < Config.memSize := by
    rw [hpc, Config.memSize]
    omega
  exact step_of_zero_bytes rfl hfits (State.walked_readMem (by omega) ..) (State.walked_readMem (by omega) ..)

theorem run_reset_walks : ∀ n < 1792, (Sys2Proof.core.run (n + 1) State.reset : Host.Outcome State Fault Refusal) =
    .next (State.walked (n + 1) (.some ⟨.unknownOpcode 0, false⟩))
  | 0, hn => by
    rw [core_run_last 0 (core_run_zero _), ← State.walked_zero]
    exact step_walked hn .none
  | n + 1, hn => (core_run_last (n + 1) (run_reset_walks n (by omega))).trans (step_walked hn _)

/-- At PC = 0x1000 no word can be fetched, and 0x1000 is the lowest address that does not exist. -/
theorem step_walked_off_memory (result : Option StepResult) :
    step (State.walked 1792 result) = .next ((State.walked 1792 result).raiseFatal (.memoryOutOfRange 0x1000)) :=
  step_of_fetch_error rfl (fetch_of_le (by rw [State.walked_PC le_rfl]; decide))

/-- Settles O59, by induction on the number of steps: each fetches a zero word, until PC = 0x1000. -/
theorem unloadedBlockWalksToTheEndOfMemory : Obligations.UnloadedBlockWalksToTheEndOfMemory := by
  refine ⟨fun n hpos hn => ?_, ?_⟩
  · obtain ⟨k, rfl⟩ := Nat.exists_eq_add_one_of_ne_zero hpos.ne'
    exact run_reset_walks k hn
  · exact (core_run_last 1792 (run_reset_walks 1791 (by decide))).trans (step_walked_off_memory _)

end Sys2Proof.Machine

/-! # Family other: how a step ends (HALT, the wait, InvalidOperandIndex, the step result), what reset leaves, and what has no
effect (a stack entry above SP, the form of the memory list) -/

namespace Sys2Proof.Machine

/-! ## A fatal condition is precise and permanent (60_exceptions.md rules R209, R210) -/

/-- The only way into HALT is to take a fatal condition, at the fetch or in an instruction: a wait ends in RUN or goes on, and
every other ending keeps the run state. -/
theorem step_enters_halt {s t : State} {c : FatalCode} (hlive : s.live) (h : step s = .next t) (hc : t.run = .halt c) :
    ∃ f : Fatal, f.code = c ∧ t = s.raiseFatal f := by
  have taken {f : Fatal} (hf : (s.raiseFatal f).run = .halt c) : ∃ f' : Fatal, f'.code = c ∧ s.raiseFatal f = s.raiseFatal f' :=
    ⟨f, RunState.halt.inj hf, rfl⟩
  rcases step_cases s with ⟨d, hd, _⟩ | ⟨x, hx, h'⟩ | ⟨_, f, _, h'⟩ | ⟨_, w, _, _, _, h'⟩ | ⟨_, w, i, _, _, h'⟩
  · exact absurd hd (hlive d)
  · cases h'.symm.trans h
    rcases waitStep_cases x s with ⟨k, _, hw⟩ | ⟨_, hw⟩
    · rw [hw] at hc
      cases hc
    · rw [hw] at hc
      exact absurd hc (hlive c)
  · cases h'.symm.trans h
    exact taken hc
  · cases h'.symm.trans h
    exact absurd hc (hlive c)
  · rcases next_of_exists (exec_cases i s) (h'.symm.trans h) with ⟨_, hkeep⟩ | ⟨_, rfl⟩ | ⟨f, rfl⟩ | ⟨x, _, _, rfl⟩
    · exact absurd (hkeep.symm.trans hc) (hlive c)
    · exact absurd hc (hlive c)
    · exact taken hc
    · cases hc

/-- A halted step leaves what it reports again: a second one changes nothing. -/
theorem haltedStep_haltedStep (c : FatalCode) (s : State) : haltedStep c (haltedStep c s) = haltedStep c s := rfl

/-- However many steps a halted block takes, it is where its first one left it. -/
theorem run_of_halt {s : State} {c : FatalCode} (hc : s.run = .halt c) :
    ∀ n, (Sys2Proof.core.run (n + 1) s : Host.Outcome State Fault Refusal) = .next (haltedStep c s)
  | 0 => (core_run_last 0 (core_run_zero s)).trans (step_of_halt hc)
  | n + 1 => (core_run_last (n + 1) (run_of_halt hc n)).trans
      ((step_of_halt (s := haltedStep c s) hc).trans (congrArg _ (haltedStep_haltedStep c s)))

/-- Settles O14: the step took a fatal condition, and by induction every later one is a halted step. -/
theorem fatalConditionsArePreciseAndPermanent : Obligations.FatalConditionsArePreciseAndPermanent := by
  intro s t c hlive h hc
  refine ⟨?_, run_of_halt hc⟩
  obtain ⟨f, rfl, ht⟩ := step_enters_halt hlive h hc
  exact ⟨f, rfl, ht⟩

/-- Settles O11: a halted step only reports. -/
theorem haltedStepChangesNothing : Obligations.HaltedStepChangesNothing :=
  fun s c hc => ⟨haltedStep c s, step_of_halt hc, ⟨rfl, rfl⟩, (Unchanged.refl {} s).report _⟩

/-- Settles O8: of PC and PC + 1 the lowest that does not exist is 0x1000 when PC = 0xFFF, and PC otherwise. -/
theorem fetchOutOfRangeHalts : Obligations.FetchOutOfRangeHalts := by
  intro s hrun hpc
  have haddr : (if s.PC.toNat = 0xFFF then 0x1000 else s.PC.toNat) = max s.PC.toNat Config.memSize := by
    split
    · next h => rw [h]; rfl
    · next h => exact (max_eq_left (by omega : 0x1000 ≤ s.PC.toNat)).symm
  rw [haddr]
  exact ⟨_, step_of_fetch_error hrun (fetch_of_le (Nat.succ_le_succ hpc)), raiseFatal_halts _ s⟩

/-! ## HALT is left only by reset (rule R212) -/

/-- No host operation but reset touches the run state. -/
theorem runEvent_keeps_run {e : Event} {s t : State} (hstep : e ≠ .step) (hreset : e ≠ .reset) (h : runEvent e s = .next t) :
    t.run = s.run := by
  cases e with
  | step => exact absurd rfl hstep
  | reset => exact absurd rfl hreset
  | load _ =>
    obtain ⟨_, hframe⟩ := runEvent_load_next h
    rw [hframe]
  | tick | setKey _ _ | clearDrawFlag =>
    cases h
    rfl

/-- Settles O49: a step of a halted block keeps HALT, reset gives RUN, and the other events keep the run state. -/
theorem haltIsLeftOnlyByReset : Obligations.HaltIsLeftOnlyByReset := by
  intro e s t h
  have hreset (he : e = .reset) : t.run = .run := by
    subst he
    cases h
    rfl
  refine ⟨fun c hc hne => ?_, hreset, fun hne hlive c hc => ?_⟩
  · by_cases he : e = .step
    · subst he
      cases (step_of_halt hc).symm.trans h
      exact hc
    · exact (runEvent_keeps_run he hne h).trans hc
  · by_cases he : e = .reset
    · cases (hreset he).symm.trans hc
    · exact hlive c ((runEvent_keeps_run hne he h).symm.trans hc)

/-! ## A reset at any time (70_reset_and_hazards.md rules R242, R243) -/

/-- Settles O55: reset keeps nothing of the state but the count of random draws. -/
theorem resetAtAnyTimeGivesTheResetState : Obligations.ResetAtAnyTimeGivesTheResetState :=
  fun s => ⟨s.hostReset, rfl, rfl, rfl⟩

/-! ## A stack entry above SP is read by nothing (10_state.md rule R29) -/

theorem State.setStack_getStack_self (s : State) (j : Ix) : s.setStack j (s.getStack j) = s := by
  simp [State.setStack, State.getStack]

theorem State.setStack_setStack_self (s : State) (j : Ix) (a b : Word) : (s.setStack j a).setStack j b = s.setStack j b := by
  simp [State.setStack]

theorem State.setStack_comm (s : State) {i j : Ix} (hij : i ≠ j) (a b : Word) :
    (s.setStack i a).setStack j b = (s.setStack j b).setStack i a := by
  simp only [State.setStack]
  rw [Vector.set_comm _ _ (Fin.val_ne_of_ne hij)]

section
variable (j : Ix) (a : Word)

theorem writeFlagV_setStack (i : Instr) (x : Ix) (r : Byte × Bool) (s : State) :
    writeFlagV i x r (s.setStack j a) = onNext (·.setStack j a) (writeFlagV i x r s) := by
  unfold writeFlagV
  split <;> rfl

theorem skipWhen_setStack (taken : Bool) (s : State) :
    skipWhen taken (s.setStack j a) = onNext (·.setStack j a) (skipWhen taken s) := by
  cases taken <;> rfl

theorem skipOnKey_setStack (x : Ix) (wanted : Bool) (s : State) :
    skipOnKey x wanted (s.setStack j a) = onNext (·.setStack j a) (skipOnKey x wanted s) := by
  unfold skipOnKey
  rw [State.setStack_getV]
  cases keyIndex (s.getV x) with
  | none => rfl
  | some k => exact skipWhen_setStack j a (s.pressed k == wanted) s

theorem storeAtI_setStack (bytes : List Byte) (s : State) :
    storeAtI bytes (s.setStack j a) = onNext (·.setStack j a) (storeAtI bytes s) := by
  unfold storeAtI
  rw [State.setStack_base]
  split <;> rfl

theorem loadRegs_setStack (m : Memory) (base : Nat) :
    ∀ (ks : List Ix) (s : State), loadRegs m base ks (s.setStack j a) = (loadRegs m base ks s).setStack j a
  | [], _ => rfl
  | _ :: ks, s => loadRegs_setStack m base ks (s.setV _ _)

theorem waitStep_setStack (x : Ix) (s : State) : waitStep x (s.setStack j a) = (waitStep x s).setStack j a := by
  unfold waitStep
  rw [State.setStack_leastPressed]
  split <;> rfl

/-- The instructions that push or pop, 2nnn and 00EE. -/
def UsesStack (i : Instr) : Prop := i = .ret ∨ ∃ nnn, i = .call nnn

/-- Every other instruction carries the stack through unread. -/
theorem exec_setStack {i : Instr} (hi : ¬ UsesStack i) (s : State) :
    exec i (s.setStack j a) = onNext (·.setStack j a) (exec i s) := by
  cases i with
  | ret => exact absurd (.inl rfl) hi
  | call nnn => exact absurd (.inr ⟨nnn, rfl⟩) hi
  | seVxKk _ _ | sneVxKk _ _ | seVxVy _ _ | sneVxVy _ _ => exact skipWhen_setStack j a _ s
  | skp x | sknp x => exact skipOnKey_setStack j a x _ s
  | addVxVy _ _ | sub _ _ | shr _ _ | subn _ _ | shl _ _ => exact writeFlagV_setStack j a _ _ _ s
  | ldBVx _ | ldMemVx _ => exact storeAtI_setStack j a _ s
  | drw x y n =>
    simp only [exec, execDrw, State.setStack_base]
    split <;> rfl
  | ldVxK x =>
    simp only [exec, execLdVxK, State.setStack_leastPressed]
    split <;> rfl
  | ldVxMem x =>
    simp only [exec, execLdVxMem, State.setStack_base, State.setStack_mem, loadRegs_setStack]
    split <;> rfl
  | cls | jp _ | jpV0 _ | ldVxKk _ _ | addVxKk _ _ | ldVxVy _ _ | or _ _ | and _ _ | xor _ _ | rnd _ _ | ldI _ | addIVx _
  | ldFVx _ | ldVxDt _ | ldDtVx _ | ldStVx _ => rfl

/-- RET reads an entry at or below SP, so not a stale one (41_control_flow.md rule R120). -/
theorem exec_ret_setStack {s : State} (hj : stackDepth s.SP ≤ j.val) :
    exec .ret (s.setStack j a) = onNext (·.setStack j a) (exec .ret s) := by
  cases hsp : s.SP with
  | none =>
    rw [exec_ret_of_none hsp, exec_ret_of_none (s := s.setStack j a) hsp]
    rfl
  | some k =>
    have hkj : k ≠ j := by
      rintro rfl
      rw [hsp, stackDepth] at hj
      omega
    have hread : (s.setStack j a).getStack k = s.getStack k := by rw [State.getStack_setStack, if_neg hkj]
    rw [exec_ret_of_some hsp, exec_ret_of_some (s := s.setStack j a) hsp, State.returned, hread]
    rfl

theorem exec_call_of_nextSP {nnn : Addr12} {s : State} {k : Ix} (h : nextSP s.SP = .some k) :
    exec (.call nnn) s = .next (s.called k nnn) := by
  rcases execCall_cases nnn s with ⟨hnone, _⟩ | ⟨i, hi, hexec⟩
  · cases h.symm.trans hnone
  · cases h.symm.trans hi
    exact hexec

theorem called_setStack_self (s : State) (nnn : Addr12) : (s.setStack j a).called j nnn = s.called j nnn :=
  congrArg (State.redirect · _) ((s.setSP (.some j)).setStack_setStack_self j a (s.PC + 2))

theorem called_setStack_other {k : Ix} (hkj : k ≠ j) (s : State) (nnn : Addr12) :
    (s.setStack j a).called k nnn = (s.called k nnn).setStack j a :=
  congrArg (State.redirect · _) ((s.setSP (.some k)).setStack_comm hkj.symm a (s.PC + 2))

/-- CALL reads no entry, and pushes onto j itself or onto another one (rule R122). -/
theorem exec_call_setStack (nnn : Addr12) (s : State) :
    exec (.call nnn) (s.setStack j a) = onNext (·.setStack j a) (exec (.call nnn) s) ∨
      exec (.call nnn) (s.setStack j a) = exec (.call nnn) s := by
  rcases nextSP_spec s.SP with ⟨_, hfull⟩ | ⟨k, hk, _, _⟩
  · rw [exec_call_of_full nnn hfull, exec_call_of_full nnn (s := s.setStack j a) hfull]
    exact .inl rfl
  · rw [exec_call_of_nextSP hk, exec_call_of_nextSP (s := s.setStack j a) hk]
    by_cases hkj : k = j
    · rw [hkj, called_setStack_self]
      exact .inr rfl
    · rw [called_setStack_other j a hkj]
      exact .inl rfl

/-- A step either carries a stale entry through unread, or is a CALL that overwrites it. -/
theorem step_setStack {s : State} (hj : stackDepth s.SP ≤ j.val) :
    step (s.setStack j a) = onNext (·.setStack j a) (step s) ∨ step (s.setStack j a) = step s := by
  have hfetch : fetch (s.setStack j a) = fetch s := rfl
  rcases step_cases s with ⟨c, hrun, h⟩ | ⟨x, hrun, h⟩ | ⟨hrun, f, hf, h⟩ | ⟨hrun, w, e, hf, hd, h⟩ | ⟨hrun, w, i, hf, hd, h⟩
  · exact .inl (by rw [h, step_of_halt (s := s.setStack j a) hrun]; rfl)
  · exact .inl (by rw [h, step_of_wait (s := s.setStack j a) hrun, waitStep_setStack]; rfl)
  · exact .inl (by rw [h, step_of_fetch_error (s := s.setStack j a) hrun (hfetch.trans hf)]; rfl)
  · exact .inl (by rw [h, step_of_decode_error (s := s.setStack j a) hrun (hfetch.trans hf) hd]; rfl)
  · rw [h, step_of_decode (s := s.setStack j a) hrun (hfetch.trans hf) hd]
    by_cases hi : UsesStack i
    · rcases hi with rfl | ⟨nnn, rfl⟩
      · exact .inl (exec_ret_setStack j a hj)
      · exact exec_call_setStack j a nnn s
    · exact .inl (exec_setStack j a hi s)

end

/-- Settles O53: in either case of `step_setStack` the next states agree once the entry does. -/
theorem staleStackEntriesAreReadByNothing : Obligations.StaleStackEntriesAreReadByNothing := by
  intro s t j a hj h
  rcases step_setStack j a hj with h' | h'
  · refine ⟨t.setStack j a, by rw [h', h, onNext_next], ?_⟩
    rw [State.setStack_setStack_self, State.setStack_getStack_self]
  · exact ⟨t, h'.trans h, t.setStack_getStack_self j⟩

/-! ## InvalidOperandIndex (43_alu.md rule R140) -/

/-- The ill-formed instructions: the five that write a flag beside their result, with VF as the result register. -/
theorem wellFormed_eq_false_iff (i : Instr) : i.wellFormed = false ↔
    ∃ y : Ix, i = .addVxVy 15 y ∨ i = .sub 15 y ∨ i = .shr 15 y ∨ i = .subn 15 y ∨ i = .shl 15 y := by
  cases i
  case addVxVy x _ | sub x _ | shr x _ | subn x _ | shl x _ => simp [Instr.wellFormed]
  all_goals exact ⟨nofun, fun ⟨y, hi⟩ => by simp at hi⟩

/-- With VF as its result register a flag instruction is rejected before it does anything. -/
theorem exec_of_not_wellFormed {i : Instr} (h : i.wellFormed = false) (s : State) : exec i s = .next (s.rejectOperand i) := by
  obtain ⟨y, rfl | rfl | rfl | rfl | rfl⟩ := (wellFormed_eq_false_iff i).mp h
  all_goals rfl

/-- Settles O10: the rejected instructions are the ill-formed ones, and no other ending reports InvalidOperandIndex. -/
theorem invalidOperandIndexExactlyWhenXIsVF : Obligations.InvalidOperandIndexExactlyWhenXIsVF := by
  intro i s
  refine ⟨fun hbad => ?_, fun hgood t w h hresult => ?_, wellFormed_eq_false_iff i⟩
  · exact ⟨_, exec_of_not_wellFormed hbad s, ⟨rfl, rfl⟩, (Unchanged.refl {} s).rejectOperand i⟩
  · rcases next_of_exists (exec_cases i s) h with ⟨hnone, _⟩ | ⟨hbad, _⟩ | ⟨f, rfl⟩ | ⟨x, _, _, rfl⟩
    · cases hnone.symm.trans hresult
    · cases hgood.symm.trans hbad
    · cases hresult
    · cases hresult

/-! ## A step in WAIT_KEY (45_keys_timers.md rule R194) -/

theorem waitStep_of_key {s : State} {k : Ix} (x : Ix) (h : s.leastPressed = .some k) :
    waitStep x s = ((s.setV x (keyCode k)).setRun .run).complete := by
  rw [waitStep, h]

theorem waitStep_of_noKey {s : State} (x : Ix) (h : s.leastPressed = .none) : waitStep x s = s.report (.waitingForKey x) := by
  rw [waitStep, h]

/-- Settles O12: the step is the wait's, which the least pressed key ends. -/
theorem waitStepTakesTheLeastKeyOrWaits : Obligations.WaitStepTakesTheLeastKeyOrWaits := by
  intro s x hx
  have hstep := step_of_wait hx
  refine ⟨fun k hk hleast => ?_, fun hnone => ?_⟩
  · rw [waitStep_of_key x (leastPressed_of_least hk hleast)] at hstep
    exact ⟨_, hstep, by simpa using keyCode_toNat k, rfl, ⟨rfl, rfl⟩,
      (((Unchanged.refl _ s).setV _ List.mem_cons_self).setRun _ rfl).complete⟩
  · rw [waitStep_of_noKey x (leastPressed_none.mpr hnone)] at hstep
    exact ⟨_, hstep, ⟨rfl, rfl⟩, (Unchanged.refl {} s).report _⟩

/-! ## The step result (60_exceptions.md rule R201) -/

/-- The state keeps the report of a step that ended in it: a condition, and drawFlag as it then is. -/
def State.Reported (t : State) : Prop := ∃ c, t.result = .some ⟨c, t.drawFlag⟩

theorem State.report_reported (s : State) (c : Condition) : (s.report c).Reported := ⟨c, rfl⟩

theorem Ending.reported {i : Instr} {s t : State} (h : Ending i s t) : t.Reported := by
  rcases h with ⟨hnone, _⟩ | ⟨_, rfl⟩ | ⟨f, rfl⟩ | ⟨x, _, _, rfl⟩
  · exact ⟨.none, hnone⟩
  · exact State.report_reported _ _
  · exact State.report_reported _ _
  · exact State.report_reported _ _

theorem waitStep_reported (x : Ix) (s : State) : (waitStep x s).Reported := by
  rcases waitStep_cases x s with ⟨_, _, h⟩ | ⟨_, h⟩
  all_goals exact h ▸ State.report_reported _ _

theorem step_reported (s : State) : ∃ t, step s = .next t ∧ t.Reported := by
  rcases step_cases s with ⟨c, _, h⟩ | ⟨x, _, h⟩ | ⟨_, f, _, h⟩ | ⟨_, w, _, _, _, h⟩ | ⟨_, w, i, _, _, h⟩
  · exact ⟨_, h, State.report_reported _ _⟩
  · exact ⟨_, h, waitStep_reported x s⟩
  · exact ⟨_, h, State.report_reported _ _⟩
  · exact ⟨_, h, State.report_reported _ _⟩
  · obtain ⟨t, ht, hending⟩ := exec_cases i s
    exact ⟨t, h.trans ht, hending.reported⟩

/-- The host reads the result that the state keeps, numbered (rules R200, R224). -/
theorem State.hostResult_of_result {t : State} {r : StepResult} (h : t.result = .some r) :
    t.hostResult = .some (r.cond.number, r.cond.info, r.drawFlag) := by
  rw [State.hostResult, h, Option.map_some]

/-- Settles O16: every way a step ends reports, and the host reads that report. -/
theorem everyStepReturnsAStepResult : Obligations.EveryStepReturnsAStepResult := by
  intro s
  obtain ⟨t, h, c, hc⟩ := step_reported s
  exact ⟨t, c, h, hc, State.hostResult_of_result hc⟩

/-! ## The canonical form of memory is canonical (notes/assumptions/12.md) -/

theorem Memory.read_cons_self (a : Nat) (v : Byte) (m : Memory) : Memory.read ((a, v) :: m) a = v := if_pos rfl

theorem Memory.read_cons_of_ne {a b : Nat} (h : b ≠ a) (v : Byte) (m : Memory) :
    Memory.read ((a, v) :: m) b = Memory.read m b := if_neg h

/-- A listed byte differs from the reset contents, so a canonical memory that reads the same lists something at or below it. -/
theorem Memory.not_wfFrom_of_listed {a : Nat} {v : Byte} {m m' : Memory} (hv : v ≠ resetByte a)
    (hread : ∀ b, Memory.read ((a, v) :: m) b = Memory.read m' b) : ¬ Memory.wfFrom (a + 1) m' = true := by
  intro hwf
  apply hv
  rw [← Memory.read_below hwf a.lt_succ_self, ← hread a, Memory.read_cons_self]

/-- Canonical memories that list different first addresses read differently. -/
theorem Memory.first_le {a b lo : Nat} {v u : Byte} {m m' : Memory} (hv : v ≠ resetByte a)
    (hwf : Memory.wfFrom lo ((b, u) :: m') = true)
    (hread : ∀ c, Memory.read ((a, v) :: m) c = Memory.read ((b, u) :: m') c) : b ≤ a := by
  rw [Memory.wfFrom_cons] at hwf
  exact not_lt.mp fun hab => Memory.not_wfFrom_of_listed hv hread ((Memory.wfFrom_cons ..).mpr ⟨hab, hwf.2⟩)

theorem Memory.eq_of_read_eq : ∀ {lo : Nat} {m m' : Memory}, Memory.wfFrom lo m = true → Memory.wfFrom lo m' = true →
    (∀ a, Memory.read m a = Memory.read m' a) → m = m'
  | _, [], [], _, _, _ => rfl
  | _, [], (a, v) :: m', _, h', hread => by
    obtain ⟨_, hv, _⟩ := (Memory.wfFrom_cons ..).mp h'
    exact absurd rfl (Memory.not_wfFrom_of_listed hv fun b => (hread b).symm)
  | _, (a, v) :: m, [], h, _, hread => by
    obtain ⟨_, hv, _⟩ := (Memory.wfFrom_cons ..).mp h
    exact absurd rfl (Memory.not_wfFrom_of_listed hv hread)
  | _, (a, v) :: m, (b, u) :: m', h, h', hread => by
    obtain ⟨_, hv, hm⟩ := (Memory.wfFrom_cons ..).mp h
    obtain ⟨_, hu, hm'⟩ := (Memory.wfFrom_cons ..).mp h'
    obtain rfl : a = b := le_antisymm (Memory.first_le hu h fun c => (hread c).symm) (Memory.first_le hv h' hread)
    have hbyte : v = u := by simpa only [Memory.read_cons_self] using hread a
    have htail : m = m' := Memory.eq_of_read_eq hm hm' fun c => by
      by_cases hc : c = a
      · rw [hc, Memory.read_below hm a.lt_succ_self, Memory.read_below hm' a.lt_succ_self]
      · simpa only [Memory.read_cons_of_ne hc] using hread c
    rw [hbyte, htail]

/-- Settles O40: by induction on the two lists, which have the same first address, with the same byte, and the same rest. -/
theorem canonicalMemoriesAreEqual : Obligations.CanonicalMemoriesAreEqual := fun _ _ => Memory.eq_of_read_eq

end Sys2Proof.Machine
